-- ==== Sys2Proof/Word.lean ====
section
/-! DEFINITION. Word: the bit-vector types of the PDO codec block (spec 00_scope.md R5, R7, R8; 10_state.md R41). -/

namespace Sys2Proof

/-- One byte (R7). -/
abbrev Byte := BitVec 8

/-- A 32-bit register or process-memory address (R5 "Register width is 32 bits"). -/
abbrev Word := BitVec 32

/-- The 64-bit operand and result (R5, R41: VAL64 and RES64). -/
abbrev DWord := BitVec 64

/-- An 11-bit COB-ID (R30). -/
abbrev CobId := BitVec 11

/-- An 8-byte frame buffer D as the spec indexes it (40_frame_codec.md R91): 64 frame bits, where frame
bit b is bit (b mod 8) of byte D[b div 8].  Here frame bit b is bit b of the vector, so byte D[k] is
bits 8k+7..8k. -/
abbrev FrameBuf := BitVec 64

end Sys2Proof
end

