-- ==== Sys2Proof/Config.lean ====
section
/-! DEFINITION. Config: what an implementation fixes (00_scope.md R5, 20_memory.md R71, R72) as plain data, and
the uninterpreted parts of the unit-conversion hooks.  The values a run uses are the field `params` of State. -/

namespace Sys2Proof

/-- The direction of a PDO (00_scope.md R16). -/
inductive PdoKind where
  | rx
  | tx
  deriving DecidableEq, Repr

/-- The identity of a unit-conversion hook (R71); only ever compared. -/
abbrev HookId := Nat

/-- HOOK_INIT of a hook the run's parameters do not list (R71, D47: OPEN): nothing is known of it. -/
opaque Config.hookInit : HookId → PdoKind → Bool

/-- HOOK_RX(h, w, v) of a hook whose conversion the run's parameters leave open (R71, D47: OPEN). -/
opaque Config.hookRx : HookId → Nat → DWord → DWord

/-- HOOK_TX(h, w, v) of a hook whose conversion the run's parameters leave open (R71, D47: OPEN). -/
opaque Config.hookTx : HookId → Nat → DWord → DWord

/-- One direction of a hook's conversion as plain data: left open (the uninterpreted functions above), or
a unit scaling v ↦ v·num div den (the form of the hooks of 95_test_vectors.md). -/
inductive HookFn where
  | uninterpreted
  | scale (num den : Nat)
  deriving DecidableEq, Repr

/-- A hook the parameters say something about (R71). -/
structure HookDef where
  id     : HookId
  initRx : Bool
  initTx : Bool
  rx     : HookFn
  tx     : HookFn
  deriving DecidableEq, Repr

/-- An object-dictionary entry (20_memory.md R72). -/
structure OdEntry where
  addr  : Word
  size  : Nat
  rd    : Bool
  wr    : Bool
  map   : Bool
  lock  : Bool
  dummy : Bool
  hook  : Option HookId
  deriving DecidableEq, Repr

/-- One row of the object-dictionary oracle (R72): the answer for one (index, sub). -/
structure OdRow where
  index : BitVec 16
  sub   : BitVec 8
  entry : OdEntry
  deriving DecidableEq, Repr

/-- An inclusive range of COB-IDs (R5: EMCY_RESERVED, SYNC_RESERVED are sets of them). -/
structure IdRange where
  lo : CobId
  hi : CobId
  deriving DecidableEq, Repr

/-- An inclusive range of process-memory addresses where the environment refuses accesses (R70). -/
structure MemRefusal where
  lo      : Word
  hi      : Word
  noRead  : Bool
  noWrite : Bool
  deriving DecidableEq, Repr

/-- The parameters of a run (R5), fixed for the run: every oracle of the spec has a finite domain of keys
it is asked for, so a table says the whole of it (an object not listed is "none"; a hook not listed is
uninterpreted). -/
structure Params where
  nRpdo        : Nat
  nTpdo        : Nat
  elemCap      : Nat
  nodeId       : BitVec 7
  emcyReserved : List IdRange
  syncReserved : List IdRange
  od           : List OdRow
  hooks        : List HookDef
  memRefused   : List MemRefusal
  deriving DecidableEq, Repr

end Sys2Proof
end

