-- ==== Sys2Proof/Syntax.lean ====
section
/-! DEFINITION. Syntax: the 15 commands of the opcode map (30_encoding.md R81), one constructor per row of
spec/opcode_table.json.  An operand field that a format does not use is no part of a command (R79). -/

namespace Sys2Proof

/-- The commands (R81).  Indices, offsets and lengths are plain numbers (R80); the EMCY error code is the
16-bit word that ends in a register. -/
inductive Instr where
  /-- 0x00, format N. -/
  | nop
  /-- 0x01, format F: slot index IDX, bit offset BOFF, bit length BLEN. -/
  | fget (slot boff blen : Nat)
  /-- 0x02, format F. -/
  | fput (slot boff blen : Nat)
  /-- 0x10, format N. -/
  | pcreate
  /-- 0x11, format N. -/
  | pdestroy
  /-- 0x12, format P: TPDO index IDX. -/
  | ptxreq (tpdo : Nat)
  /-- 0x13, format N. -/
  | ptask
  /-- 0x20, format E: the EMCY error code IMM16. -/
  | ealarm (code : BitVec 16)
  /-- 0x21, format N. -/
  | eclear
  /-- 0x22, format N. -/
  | eforce
  /-- 0x23, format N. -/
  | ecobid
  /-- 0x30, format N. -/
  | scobid
  /-- 0x31, format N. -/
  | svalid
  /-- 0x40, format N. -/
  | fack
  /-- 0x41, format N. -/
  | fclr
  deriving DecidableEq, Repr

end Sys2Proof
end

