-- ==== Sys2Proof/WellFormed.lean ====
section
/-! DEFINITION. WellFormed: which terms of Instr a command word can hold (30_encoding.md R78, R80: IDX 0..255,
BOFF 0..63, BLEN 0..127).  Whether an encodable operand is also legal (an index below NSLOT, a field inside
the frame) is for the command's own checks (R85, 40_frame_codec.md R94). -/

namespace Sys2Proof

/-- IDX is 8 bits wide (R78). -/
def idxFits (n : Nat) : Bool := n < 256

/-- BOFF is 6 bits wide (R78). -/
def boffFits (n : Nat) : Bool := n < 64

/-- BLEN is 7 bits wide (R78). -/
def blenFits (n : Nat) : Bool := n < 128

/-- The operands fit their fields (R78). -/
def Instr.wellFormed : Instr → Bool
  | .nop => true
  | .fget slot boff blen => idxFits slot && boffFits boff && blenFits blen
  | .fput slot boff blen => idxFits slot && boffFits boff && blenFits blen
  | .pcreate => true
  | .pdestroy => true
  | .ptxreq tpdo => idxFits tpdo
  | .ptask => true
  | .ealarm _ => true
  | .eclear => true
  | .eforce => true
  | .ecobid => true
  | .scobid => true
  | .svalid => true
  | .fack => true
  | .fclr => true

end Sys2Proof
end

