-- ==== Sys2Proof/Decode.lean ====
section
/-! DEFINITION. Decode: the command word (30_encoding.md R77 to R87), its decoder, total on every 32-bit word, and
the encoder written from the same tables. -/

namespace Sys2Proof

/-- Why a word is no command: its OP is not in the opcode map (R86). -/
inductive DecodeError where
  | undefinedOp (op : Nat)
  deriving DecidableEq, Repr

/-- The value of a word's bits lo+width-1..lo (R7, R80: unsigned, zero-extended). -/
def wordField (c : Word) (lo width : Nat) : Nat := (c.extractLsb' lo width).toNat

/-- OP = c[7:0] (R78). -/
def opField (c : Word) : Nat := wordField c 0 8

/-- IDX = c[15:8] (R78). -/
def idxField (c : Word) : Nat := wordField c 8 8

/-- BOFF = c[21:16] (R78). -/
def boffField (c : Word) : Nat := wordField c 16 6

/-- BLEN = c[28:22] (R78). -/
def blenField (c : Word) : Nat := wordField c 22 7

/-- IMM16 = c[31:16] (R78). -/
def imm16Field (c : Word) : BitVec 16 := c.extractLsb' 16 16

/-- R84: OP alone selects the command; a field its format does not list is ignored (R79); every other OP
is undefined (R86). -/
def decode (c : Word) : Except DecodeError Instr :=
  match opField c with
  | 0x00 => .ok .nop
  | 0x01 => .ok (.fget (idxField c) (boffField c) (blenField c))
  | 0x02 => .ok (.fput (idxField c) (boffField c) (blenField c))
  | 0x10 => .ok .pcreate
  | 0x11 => .ok .pdestroy
  | 0x12 => .ok (.ptxreq (idxField c))
  | 0x13 => .ok .ptask
  | 0x20 => .ok (.ealarm (imm16Field c))
  | 0x21 => .ok .eclear
  | 0x22 => .ok .eforce
  | 0x23 => .ok .ecobid
  | 0x30 => .ok .scobid
  | 0x31 => .ok .svalid
  | 0x40 => .ok .fack
  | 0x41 => .ok .fclr
  | op => .error (.undefinedOp op)

/-- The OP value of each command (R81). -/
def opcodeOf : Instr → Nat
  | .nop => 0x00
  | .fget _ _ _ => 0x01
  | .fput _ _ _ => 0x02
  | .pcreate => 0x10
  | .pdestroy => 0x11
  | .ptxreq _ => 0x12
  | .ptask => 0x13
  | .ealarm _ => 0x20
  | .eclear => 0x21
  | .eforce => 0x22
  | .ecobid => 0x23
  | .scobid => 0x30
  | .svalid => 0x31
  | .fack => 0x40
  | .fclr => 0x41

/-- The operand part of the word: R78 "F: c = OP + (IDX << 8) + (BOFF << 16) + (BLEN << 22)", and likewise for
formats N, P and E. -/
def operandBits : Instr → Nat
  | .nop => 0
  | .fget slot boff blen => slot * 2 ^ 8 + boff * 2 ^ 16 + blen * 2 ^ 22
  | .fput slot boff blen => slot * 2 ^ 8 + boff * 2 ^ 16 + blen * 2 ^ 22
  | .pcreate => 0
  | .pdestroy => 0
  | .ptxreq tpdo => tpdo * 2 ^ 8
  | .ptask => 0
  | .ealarm code => code.toNat * 2 ^ 16
  | .eclear => 0
  | .eforce => 0
  | .ecobid => 0
  | .scobid => 0
  | .svalid => 0
  | .fack => 0
  | .fclr => 0

/-- The command word of a well-formed command, its unused bits 0 (R78). -/
def encode (i : Instr) : Word := BitVec.ofNat 32 (opcodeOf i + operandBits i)

/-- The bits of the word the command's format lists (R78, R79). -/
def usedMask : Instr → Word
  | .nop => 0x000000FF
  | .fget _ _ _ => 0x1FFFFFFF
  | .fput _ _ _ => 0x1FFFFFFF
  | .pcreate => 0x000000FF
  | .pdestroy => 0x000000FF
  | .ptxreq _ => 0x0000FFFF
  | .ptask => 0x000000FF
  | .ealarm _ => 0xFFFF00FF
  | .eclear => 0x000000FF
  | .eforce => 0x000000FF
  | .ecobid => 0x000000FF
  | .scobid => 0x000000FF
  | .svalid => 0x000000FF
  | .fack => 0x000000FF
  | .fclr => 0x000000FF

/-- The command word whose low `nbits` bits are `w` and whose other bits are 0 (opcode_table.json numbers a
row's bits as R78 does: bit 0 the least significant of the one 32-bit word). -/
def tableWord (nbits w : Nat) : Word := BitVec.ofNat 32 (w % 2 ^ nbits)

/-- The command the decoder reads from a row's word. -/
def decodeTableWord (nbits w : Nat) : Option Instr := (decode (tableWord nbits w)).toOption

end Sys2Proof
end

