-- ==== Sys2Proof/Machine/Params.lean ====
section
/-! DEFINITION. Params: what is computed from the run's parameters (00_scope.md R5; 10_state.md R36; 20_memory.md
R70 to R72), and the parameter values State.reset stands on, which are the test configuration of
95_test_vectors.md (notes/assumptions/2.md). -/

namespace Sys2Proof

/-- NSLOT (R5, R36). -/
def Params.nSlot (p : Params) : Nat := p.nRpdo + p.nTpdo + 3

/-- slotRx(i) (R36). -/
def Params.slotRx (_p : Params) (i : Nat) : Nat := i

/-- slotTx(j) (R36). -/
def Params.slotTx (p : Params) (j : Nat) : Nat := p.nRpdo + j

/-- EMCY_S, the EMCY transmit slot (R36). -/
def Params.emcyS (p : Params) : Nat := p.nRpdo + p.nTpdo

/-- SYNC_S, the SYNC receive slot (R36). -/
def Params.syncS (p : Params) : Nat := p.emcyS + 1

/-- SCR_S, the scratch slot (R36). -/
def Params.scrS (p : Params) : Nat := p.emcyS + 2

/-- The TPDO slots (R36). -/
def Params.isTxSlot (p : Params) (k : Nat) : Bool := p.nRpdo ≤ k && k < p.nRpdo + p.nTpdo

/-- The slots that ever send: the TPDO slots and EMCY_S (R39, R202, R203). -/
def Params.isSendSlot (p : Params) (k : Nat) : Bool := p.isTxSlot k || k == p.emcyS

/-- The object-dictionary oracle OD(index, sub) (R72): the first row of the table with that key. -/
def Params.lookup (p : Params) (index : BitVec 16) (sub : BitVec 8) : Option OdEntry :=
  (p.od.find? fun r => r.index == index && r.sub == sub).map (·.entry)

/-- What the parameters say of a hook. -/
def Params.hook? (p : Params) (h : HookId) : Option HookDef := p.hooks.find? fun d => d.id == h

/-- HOOK_INIT(h, dir) (R71): true is accept. -/
def Params.hookInit (p : Params) (h : HookId) (k : PdoKind) : Bool :=
  match p.hook? h, k with
  | some d, .rx => d.initRx
  | some d, .tx => d.initTx
  | none, _ => Config.hookInit h k

/-- One conversion, before it is cut to the element's width. -/
def HookFn.apply (f : HookFn) (openValue : DWord) (v : DWord) : DWord :=
  match f with
  | .uninterpreted => openValue
  | .scale num den => BitVec.ofNat 64 (v.toNat * num / den)

/-- The low w bytes of v: "a value of w bytes" (R71), v mod 2^(8w). -/
def lowBytes (w : Nat) (v : DWord) : DWord := BitVec.ofNat 64 (v.toNat % 2 ^ (8 * w))

/-- HOOK_RX(h, w, v) (R71). -/
def Params.hookRx (p : Params) (h : HookId) (w : Nat) (v : DWord) : DWord :=
  lowBytes w <| match p.hook? h with
    | some d => d.rx.apply (Config.hookRx h w v) v
    | none => Config.hookRx h w v

/-- HOOK_TX(h, w, v) (R71). -/
def Params.hookTx (p : Params) (h : HookId) (w : Nat) (v : DWord) : DWord :=
  lowBytes w <| match p.hook? h with
    | some d => d.tx.apply (Config.hookTx h w v) v
    | none => Config.hookTx h w v

/-- Does the environment admit a one-byte read at this address (R70)? -/
def Params.admitsRead (p : Params) (a : Word) : Bool :=
  !(p.memRefused.any fun r => r.noRead && r.lo.toNat ≤ a.toNat && a.toNat ≤ r.hi.toNat)

/-- Does the environment admit a one-byte write at this address (R70)? -/
def Params.admitsWrite (p : Params) (a : Word) : Bool :=
  !(p.memRefused.any fun r => r.noWrite && r.lo.toNat ≤ a.toNat && a.toNat ≤ r.hi.toNat)

/-- Membership of a COB-ID in a set given as ranges (R14, R5). -/
def inRanges (rs : List IdRange) (c : CobId) : Bool :=
  rs.any fun r => r.lo.toNat ≤ c.toNat && c.toNat ≤ r.hi.toNat

/-- The ranges R5 allows a run's parameters to take. -/
abbrev Params.wf (p : Params) : Prop :=
  1 ≤ p.nRpdo ∧ p.nRpdo ≤ 64 ∧ 1 ≤ p.nTpdo ∧ p.nTpdo ≤ 64 ∧ p.nodeId ≠ 0 ∧
    ∀ r ∈ p.od, 1 ≤ r.entry.size ∧ r.entry.size ≤ 8

/-- The default EMCY_RESERVED (R5, R157). -/
def emcyReservedDefault : List IdRange :=
  [⟨0x000, 0x000⟩, ⟨0x580, 0x5FF⟩, ⟨0x600, 0x67F⟩]

/-- The default SYNC_RESERVED (R5, R161). -/
def syncReservedDefault : List IdRange :=
  [⟨0x000, 0x000⟩, ⟨0x580, 0x67F⟩, ⟨0x700, 0x77F⟩, ⟨0x7E4, 0x7E5⟩]

/-- The object dictionary of 95_test_vectors.md; 1 and 2 are its hooks h1 and h2. -/
def testOd : List OdRow :=
  [⟨0x6040, 0, ⟨0x100, 2, true, true, true, false, false, none⟩⟩,
   ⟨0x6041, 0, ⟨0x102, 2, true, false, true, false, false, none⟩⟩,
   ⟨0x6064, 0, ⟨0x104, 4, true, true, true, false, false, none⟩⟩,
   ⟨0x60FF, 0, ⟨0x109, 4, true, true, true, false, false, none⟩⟩,
   ⟨0x6060, 0, ⟨0x10D, 1, true, true, true, false, false, none⟩⟩,
   ⟨0x0005, 0, ⟨0x000, 1, false, false, true, false, true, none⟩⟩,
   ⟨0x1000, 0, ⟨0x200, 4, true, false, false, false, false, none⟩⟩,
   ⟨0x6072, 0, ⟨0x110, 2, true, true, true, true, false, none⟩⟩,
   ⟨0x2100, 1, ⟨0x120, 2, true, true, true, false, false, some 1⟩⟩,
   ⟨0x2100, 2, ⟨0x122, 2, true, true, true, false, false, some 2⟩⟩,
   ⟨0x2200, 0, ⟨0x130, 8, true, true, true, false, false, none⟩⟩]

/-- The hooks of 95_test_vectors.md: h1 accepts, doubles on receive and halves on transmit; h2 refuses. -/
def testHooks : List HookDef :=
  [⟨1, true, true, .scale 2 1, .scale 1 2⟩, ⟨2, false, false, .uninterpreted, .uninterpreted⟩]

/-- The parameters of State.reset: the test configuration of 95_test_vectors.md.  No statement rests on
these values (State.resetWith takes any). -/
def Params.testConfig : Params :=
  { nRpdo := 4, nTpdo := 4, elemCap := 64, nodeId := 5,
    emcyReserved := emcyReservedDefault, syncReserved := syncReservedDefault,
    od := testOd, hooks := testHooks, memRefused := [] }

end Sys2Proof
end

