-- ==== Sys2Proof/Machine/State.lean ====
section
/-! DEFINITION. State: every piece of state 10_state.md gives the block (R23), the environment's process memory
(20_memory.md R66), the run's parameters (00_scope.md R5), and the model's own schedule of agents' steps
(60_exceptions.md R186 to R203), as plain data; the reasons a step can stop; the reset state (R206, R207). -/

namespace Sys2Proof.Machine

/-- STATUS.CODE by name (60_exceptions.md R177); codes 9 to 255 have no name and are never written. -/
inductive Status where
  | ok
  | illegal
  | errArg
  | busy
  | errState
  | cfgFail
  | errCobId
  | okNoTx
  | dup
  deriving DecidableEq, Repr

/-- TXST, the transmit ownership of a slot (10_state.md R39). -/
inductive TxState where
  | idle
  | filling
  | ready
  | sending
  deriving DecidableEq, Repr

/-- A frame slot (R37 to R39).  LEN is 0..8. -/
structure Slot where
  id     : CobId
  len    : Nat
  data   : FrameBuf
  inht   : BitVec 16
  new    : Bool
  ovr    : Bool
  rtr    : Bool
  txOk   : Bool
  txBlk  : Bool
  inh    : Bool
  hpRx   : Bool
  vhpRx  : Bool
  reg    : Bool
  rtrReg : Bool
  txst   : TxState
  deriving DecidableEq, Repr

/-- The definition registers every PDO has (R30 to R32). -/
structure PdoDef where
  comm   : Word
  ttype  : BitVec 8
  mapCnt : BitVec 8
  map    : Vector Word 8
  deriving DecidableEq, Repr

/-- The definition registers of a TPDO: CFG.CHG, INHIBIT and SYNCSTART are reserved in an RPDO's block (R32). -/
structure TxDef where
  base      : PdoDef
  chg       : Bool
  inhibit   : BitVec 16
  syncStart : BitVec 8
  deriving DecidableEq, Repr

/-- KIND of a compiled element (R44). -/
inductive ElemKind where
  | data
  | dummy
  deriving DecidableEq, Repr

/-- A compiled element (R44). -/
structure Elem where
  kind   : ElemKind
  off    : Nat
  w      : Nat
  addr   : Word
  sel    : BitVec 4
  hookId : Option HookId
  deriving DecidableEq, Repr

/-- The transmission-type class of a TPDO (R43, 41_pdo_config.md R103). -/
inductive TxClass where
  | syncAcyc
  | syncCyc
  | syncRtr
  | asyncRtr
  | event
  deriving DecidableEq, Repr

/-- A compiled RPDO (R42).  NELEM is the length of `elems`. -/
structure RxEntry where
  totLen : Nat
  sync   : Bool
  elems  : List Elem
  deriving DecidableEq, Repr

/-- A compiled TPDO (R43).  NELEM is the length of `elems`. -/
structure TxEntry where
  totLen  : Nat
  sync    : Bool
  cls     : TxClass
  ncyc    : BitVec 8
  chg     : Bool
  elems   : List Elem
  syncCnt : BitVec 8
  req     : Bool
  primed  : Bool
  prev    : FrameBuf
  deriving DecidableEq, Repr

/-- Process memory (20_memory.md R66): cells with strictly rising addresses, none equal to what an unlisted
address reads as. -/
abbrev Memory := List Host.Cell

/-- The width of a host access (20_memory.md R62). -/
inductive AccessWidth where
  | w8
  | w16
  | w32
  deriving DecidableEq, Repr

/-- The width of an application write (60_exceptions.md R187). -/
inductive AppWidth where
  | b1
  | b2
  | b4
  | b8
  deriving DecidableEq, Repr

/-- One step an agent asks for (60_exceptions.md R186, R191): the host's register accesses (R192), the RT
step (42_pdo_runtime.md R135), the transport's events (R198 to R203), the application's writes (R187) and
the platform's reset input (70_reset_and_hazards.md R206). -/
inductive Input where
  | hostRead (addr : BitVec 16) (width : AccessWidth)
  | hostWrite (addr : BitVec 16) (width : AccessWidth) (value : Word)
  | rtStep
  | evRx (slot : Nat) (bytes : List Byte)
  | evRtr (slot : Nat)
  | evTake (slot : Nat)
  | evDone (slot : Nat) (ok : Bool)
  | evInh (slot : Nat) (b : Bool)
  | evBlk (slot : Nat) (b : Bool)
  | app (addr : Word) (width : AppWidth) (value : DWord)
  | resetInput
  deriving DecidableEq, Repr

/-- What the last step answered to the agent that asked for it: the value of a register read, the
completion of a register write, a bus error (R62), an event taken, or an event that was not enabled. -/
inductive Response where
  | none
  | value (v : Word)
  | written
  | busError
  | taken
  | notEnabled
  deriving DecidableEq, Repr

/-- The machine.  `params` is fixed (R5); `mem` is the environment's (R66); `inputs` is the schedule of steps
still to come and `response` the answer of the last one, both the model's own (notes/assumptions/1.md). -/
structure State where
  params        : Params
  status        : Status
  arg0          : Word
  arg1          : Word
  res0          : Word
  res1          : Word
  fault         : BitVec 5
  faultNew      : BitVec 5
  irqEn         : BitVec 5
  cfgErr        : Word
  emcyCobId     : Word
  emcyErrReg    : Byte
  emcyMfr       : Word
  emcyCode      : BitVec 16
  emcyInh       : BitVec 16
  alarms        : Bool
  syncCobId     : Word
  syncInstalled : Bool
  resyncEn      : Bool
  validIn       : Bool
  defRx         : List PdoDef
  defTx         : List TxDef
  slots         : List Slot
  crx           : List (Option RxEntry)
  ctx           : List (Option TxEntry)
  active        : Bool
  chain         : List Nat
  chainCur      : Option Nat
  rxCnt         : List Word
  txCnt         : List Word
  mem           : Memory
  inputs        : List Input
  response      : Response
  deriving DecidableEq, Repr

/-- Why the machine has no further step. -/
inductive Fault where
  /-- Raised by a process-memory access (MemRead, MemWrite) the environment refuses: "the block has no
  step" (20_memory.md R70).  Safe: the run stops where the spec says the block stops. -/
  | memoryRefused
  deriving DecidableEq, Repr

/-- Why an instruction has no meaning in the model. -/
inductive Refusal where
  /-- Raised by an arm of exec that has no meaning yet.  Safe: nothing is claimed of the instruction. -/
  | notModelled (mnemonic : String)
  deriving DecidableEq, Repr

/-- A step's answer. -/
abbrev Result := Host.Outcome State Fault Refusal

/-- R207: the slot after reset. -/
def Slot.reset : Slot :=
  { id := 0, len := 0, data := 0, inht := 0, new := false, ovr := false, rtr := false, txOk := false,
    txBlk := false, inh := false, hpRx := false, vhpRx := false, reg := false, rtrReg := false,
    txst := .idle }

/-- R206: COMM 0x8000_0000 (INVALID), every other definition register 0. -/
def PdoDef.reset : PdoDef :=
  { comm := 0x80000000, ttype := 0, mapCnt := 0, map := Vector.replicate 8 0 }

/-- R206. -/
def TxDef.reset : TxDef :=
  { base := PdoDef.reset, chg := false, inhibit := 0, syncStart := 0 }

/-- R206, R207: the block after reset with the parameters `p` sampled; process memory lists nothing and no
agent has asked for a step. -/
def State.resetWith (p : Params) : State :=
  { params := p,
    status := .ok, arg0 := 0, arg1 := 0, res0 := 0, res1 := 0,
    fault := 0, faultNew := 0, irqEn := 0, cfgErr := 0,
    emcyCobId := 0x080 + p.nodeId.setWidth 32, emcyErrReg := 0, emcyMfr := 0, emcyCode := 0,
    emcyInh := 0, alarms := false,
    syncCobId := 0x080, syncInstalled := false, resyncEn := false, validIn := false,
    defRx := List.replicate p.nRpdo PdoDef.reset, defTx := List.replicate p.nTpdo TxDef.reset,
    slots := List.replicate p.nSlot Slot.reset,
    crx := List.replicate p.nRpdo none, ctx := List.replicate p.nTpdo none,
    active := false, chain := [], chainCur := none,
    rxCnt := List.replicate p.nRpdo 0, txCnt := List.replicate p.nTpdo 0,
    mem := [], inputs := [], response := .none }

/-- The machine right after reset, with the parameters of 95_test_vectors.md (notes/assumptions/2.md). -/
def State.reset : State := State.resetWith Params.testConfig

end Sys2Proof.Machine
end

