-- ==== Sys2Proof/Machine/Flags.lean ====
section
/-! DEFINITION. Flags: the block has no arithmetic flags (10_state.md R50); its status codes (60_exceptions.md
R177), fault latches (R180, R181), interrupt output (R183) and the CFGERR word (R178). -/

namespace Sys2Proof.Machine

/-- STATUS.CODE (R177). -/
def Status.code : Status → BitVec 8
  | .ok => 0
  | .illegal => 1
  | .errArg => 2
  | .busy => 3
  | .errState => 4
  | .cfgFail => 5
  | .errCobId => 6
  | .okNoTx => 7
  | .dup => 8

/-- The fault bits by name (R180). -/
inductive FaultBit where
  | pdoLen
  | swOvr
  | emcyCobId
  | syncCobId
  | pdoCfg
  deriving DecidableEq, Repr

/-- The position of a fault bit (R180). -/
def FaultBit.pos : FaultBit → Nat
  | .pdoLen => 0
  | .swOvr => 1
  | .emcyCobId => 2
  | .syncCobId => 3
  | .pdoCfg => 4

/-- The fault register with only this bit set. -/
def FaultBit.mask (b : FaultBit) : BitVec 5 := 1#5 <<< b.pos

/-- latch(b) (R181): on the edge of the condition both FAULT and FAULTNEW take the bit; a bit already
latched changes nothing. -/
def State.latch (s : State) (b : FaultBit) : State :=
  if s.fault.getLsbD b.pos then s
  else { s with fault := s.fault ||| b.mask, faultNew := s.faultNew ||| b.mask }

/-- The interrupt output IRQ (R183): a level, a function of the state. -/
def State.irq (s : State) : Bool := (s.faultNew &&& s.irqEn) != 0

/-- The PDO configuration errors by name (R178). -/
inductive CfgCode where
  | invalidCobId
  | rtrNotValid
  | invalidTxType
  | invalidMapCount
  | outOfMemory
  | invalidSyncStart
  | internalError
  | pdoLengthExceed
  | hookProcessingFail
  | duplicatedCobId
  deriving DecidableEq, Repr

/-- CFGERR.CODE (R178). -/
def CfgCode.code : CfgCode → BitVec 4
  | .invalidCobId => 1
  | .rtrNotValid => 2
  | .invalidTxType => 3
  | .invalidMapCount => 4
  | .outOfMemory => 5
  | .invalidSyncStart => 6
  | .internalError => 7
  | .pdoLengthExceed => 8
  | .hookProcessingFail => 9
  | .duplicatedCobId => 10

/-- A configuration failure: what Fail(code, kind, p [, e]) reports (41_pdo_config.md R114). -/
structure CfgFail where
  code  : CfgCode
  kind  : PdoKind
  idx   : Nat
  entry : Option Nat
  deriving DecidableEq, Repr

/-- A field of a register word: v in the bits from `lo` up. -/
def bitsAt (lo : Nat) {n : Nat} (v : BitVec n) : Word := v.setWidth 32 <<< lo

/-- One bit of a register word. -/
def flagAt (lo : Nat) (b : Bool) : Word := bitsAt lo (BitVec.ofBool b)

/-- The CFGERR word (R178). -/
def CfgFail.word (f : CfgFail) : Word :=
  bitsAt 0 f.code.code ||| flagAt 4 (f.kind == .tx) ||| bitsAt 8 (BitVec.ofNat 6 f.idx) |||
    bitsAt 16 (BitVec.ofNat 3 (f.entry.getD 0)) ||| flagAt 19 f.entry.isSome

end Sys2Proof.Machine
end

