-- ==== Sys2Proof/Machine/Operands.lean ====
section
/-! DEFINITION. Operands: every operand form the commands use: frame fields (40_frame_codec.md R91 to R95), the
64-bit operand and result (10_state.md R41), COB-ID words (R29, R30), mapping entries (R31), little-endian
byte sequences (00_scope.md R9). -/

namespace Sys2Proof.Machine

/-- Byte D[k] of a frame buffer, or byte k of a 64-bit value (R9, R91). -/
def byteAt (d : DWord) (k : Nat) : Byte := d.extractLsb' (8 * k) 8

/-- LE(b[0..n-1]) (R9) as a 64-bit value, for at most 8 bytes. -/
def leBytes : List Byte → DWord
  | [] => 0
  | b :: bs => b.setWidth 64 ||| (leBytes bs <<< 8)

/-- The bits 0..len-1 of a 64-bit value. -/
def fieldMask (len : Nat) : DWord := ~~~(BitVec.allOnes 64 <<< len)

/-- GetBits(D, off, len) (R92). -/
def getBits (d : FrameBuf) (off len : Nat) : DWord := (d >>> off) &&& fieldMask len

/-- PutBits(D, off, len, v) (R93). -/
def putBits (d : FrameBuf) (off len : Nat) (v : DWord) : FrameBuf :=
  (d &&& ~~~(fieldMask len <<< off)) ||| ((v &&& fieldMask len) <<< off)

/-- A legal (off, len) (R94). -/
def legalField (off len : Nat) : Bool := 1 ≤ len && len ≤ 64 && off + len ≤ 64

/-- Bytes 0..n-1 of two buffers agree (42_pdo_runtime.md R138). -/
def samePrefix (n : Nat) (a b : FrameBuf) : Bool := getBits a 0 (8 * n) == getBits b 0 (8 * n)

/-- VAL64 = {ARG1, ARG0} (R41). -/
def State.val64 (s : State) : DWord := s.arg1 ++ s.arg0

/-- r[31:0] (R96). -/
def loWord (r : DWord) : Word := r.extractLsb' 0 32

/-- r[63:32] (R96). -/
def hiWord (r : DWord) : Word := r.extractLsb' 32 32

/-- COB-ID word bits [10:0] ID (R29, R30, R35). -/
def cobId (w : Word) : CobId := w.extractLsb' 0 11

/-- COB-ID word bit [29] FRAME. -/
def cobFrame (w : Word) : Bool := w.getLsbD 29

/-- COMM bit [30] RTR_EN (R30). -/
def cobRtrEn (w : Word) : Bool := w.getLsbD 30

/-- COB-ID word bit [31] INVALID. -/
def cobInvalid (w : Word) : Bool := w.getLsbD 31

/-- A COB-ID word with INVALID set: v | 0x8000_0000 (R157, R161). -/
def cobInvalidate (w : Word) : Word := w ||| 0x80000000

/-- MAP[e][31:16] INDEX (R31). -/
def mapIndex (m : Word) : BitVec 16 := m.extractLsb' 16 16

/-- MAP[e][15:8] SUB (R31). -/
def mapSub (m : Word) : BitVec 8 := m.extractLsb' 8 8

/-- MAP[e][7:0] BITLEN (R31). -/
def mapBits (m : Word) : Nat := (m.extractLsb' 0 8).toNat

/-- SEL[3] = HOOK of an element (R44). -/
def Elem.hooked (el : Elem) : Bool := el.sel.getLsbD 3

end Sys2Proof.Machine
end

