-- ==== Sys2Proof/Machine/Ops.lean ====
section
/-! DEFINITION. Ops: the named operations over process memory (20_memory.md R66 to R70), slots (10_state.md R36),
compiled state and counters, and the one way a command ends (00_scope.md R13).  The block has no traps
(60_exceptions.md R195): `State.finish` is where every error of a command is reported. -/

namespace Sys2Proof.Machine

/-! ### How a command ends -/

/-- `raise Status(c)`, `done(c)` and `done` (R13): STATUS takes the code, the command is over. -/
def State.finish (s : State) (c : Status) : State := { s with status := c }

/-- Run f in the state r answers, or stop as r stops. -/
def andThen (r : Result) (f : State → Result) : Result :=
  match r with
  | .next s => f s
  | .fault e => .fault e
  | .refused e => .refused e

/-- `for i in ...` (R14): the body once for each listed index, in order. -/
def forEach (body : Nat → State → Result) : List Nat → State → Result
  | [], s => .next s
  | i :: is, s => andThen (body i s) (forEach body is)

/-! ### Process memory -/

/-- What an address no cell lists holds (notes/assumptions/3.md). -/
def Memory.blank : Byte := 0

/-- M[a] (R66). -/
def Memory.read : Memory → Nat → Byte
  | [], _ => Memory.blank
  | c :: m, a => if c.1 = a then c.2 else Memory.read m a

/-- M[a] <- v, keeping the canonical form. -/
def Memory.write : Memory → Nat → Byte → Memory
  | [], a, v => if v = Memory.blank then [] else [(a, v)]
  | c :: m, a, v =>
    if a < c.1 then (if v = Memory.blank then c :: m else (a, v) :: c :: m)
    else if a = c.1 then (if v = Memory.blank then m else (a, v) :: m)
    else c :: Memory.write m a v

/-- The canonical form from address `lo` up. -/
def Memory.wfFrom : Nat → Memory → Bool
  | _, [] => true
  | lo, c :: m => lo ≤ c.1 && c.1 < 2 ^ 32 && c.2 != Memory.blank && Memory.wfFrom (c.1 + 1) m

/-- The canonical form: addresses strictly rising, below 2^32, no cell equal to a blank one. -/
def Memory.wf (m : Memory) : Bool := Memory.wfFrom 0 m

/-- The addresses of a w-byte access at `a` (R67, R68): addr, addr+1, ..., modulo 2^32 (R69). -/
def accessAddrs (a : Word) (w : Nat) : List Word := (List.range w).map fun k => a + BitVec.ofNat 32 k

/-- Store the w bytes of v (R68: byte k is v[8k+7:8k]). -/
def Memory.writeBytes (m : Memory) (a : Word) (w : Nat) (v : DWord) : Memory :=
  (List.range w).foldl (fun m k => m.write (a + BitVec.ofNat 32 k).toNat (byteAt v k)) m

/-- The w bytes at `a`, little-endian (R67). -/
def Memory.readBytes (m : Memory) (a : Word) (w : Nat) : DWord :=
  leBytes ((accessAddrs a w).map fun x => m.read x.toNat)

/-- MemRead(addr, w) (R67); an access the environment refuses leaves the block without a step (R70).  The
aligned and the byte-by-byte form read the same value (R69). -/
def memRead (s : State) (a : Word) (w : Nat) : Except Fault DWord :=
  if (accessAddrs a w).all s.params.admitsRead then .ok (s.mem.readBytes a w)
  else .error .memoryRefused

/-- MemWrite(addr, w, v) (R68); an access the environment refuses leaves the block without a step (R70). -/
def memWrite (s : State) (a : Word) (w : Nat) (v : DWord) : Result :=
  if (accessAddrs a w).all s.params.admitsWrite then .next { s with mem := s.mem.writeBytes a w v }
  else .fault .memoryRefused

/-! ### Slots, definitions, compiled state, counters -/

/-- S[k] (R36). -/
def State.slot (s : State) (k : Nat) : Slot := s.slots.getD k Slot.reset

/-- Change S[k]. -/
def State.modSlot (s : State) (k : Nat) (f : Slot → Slot) : State :=
  { s with slots := s.slots.modify k f }

/-- CRX[i] (R42). -/
def State.rxEntry (s : State) (i : Nat) : Option RxEntry := s.crx.getD i none

/-- CTX[j] (R43). -/
def State.txEntry (s : State) (j : Nat) : Option TxEntry := s.ctx.getD j none

/-- Change CTX[j], when it is not none. -/
def State.modTx (s : State) (j : Nat) (f : TxEntry → TxEntry) : State :=
  { s with ctx := s.ctx.modify j (Option.map f) }

/-- DEF_RX[i] (R32). -/
def State.rxDef (s : State) (i : Nat) : PdoDef := s.defRx.getD i PdoDef.reset

/-- DEF_TX[j] (R32). -/
def State.txDef (s : State) (j : Nat) : TxDef := s.defTx.getD j TxDef.reset

/-- RXCNT[i] <- RXCNT[i] + 1, mod 2^32 (R46). -/
def State.countRx (s : State) (i : Nat) : State := { s with rxCnt := s.rxCnt.modify i (· + 1) }

/-- TXCNT[j] <- TXCNT[j] + 1, mod 2^32 (R46). -/
def State.countTx (s : State) (j : Nat) : State := { s with txCnt := s.txCnt.modify j (· + 1) }

/-- The transport owns the slot's data (R39). -/
def Slot.transportOwned (sl : Slot) : Bool := sl.txst == .ready || sl.txst == .sending

end Sys2Proof.Machine
end

