-- ==== Sys2Proof/Machine/Codec.lean ====
section
/-! DEFINITION. Codec: the frame bit-field codec FGET and FPUT (40_frame_codec.md R96, R97). -/

namespace Sys2Proof.Machine

/-- FGET (R96): the field, zero-extended, to RES1:RES0.  The slot's LEN, flags and TXST play no part. -/
def execFget (slot boff blen : Nat) (s : State) : Result :=
  .next <|
    if s.params.nSlot ≤ slot then s.finish .errArg
    else if !legalField boff blen then s.finish .errArg
    else
      { s with
        res0 := loWord (getBits (s.slot slot).data boff blen)
        res1 := hiWord (getBits (s.slot slot).data boff blen) }.finish .ok

/-- FPUT (R97): VAL64 into the field, unless the transport owns the slot's data. -/
def execFput (slot boff blen : Nat) (s : State) : Result :=
  .next <|
    if s.params.nSlot ≤ slot then s.finish .errArg
    else if !legalField boff blen then s.finish .errArg
    else if (s.slot slot).transportOwned then s.finish .busy
    else
      (s.modSlot slot fun sl => { sl with data := putBits sl.data boff blen s.val64 }).finish .ok

end Sys2Proof.Machine
end

