-- ==== Sys2Proof/Machine/Control.lean ====
section
/-! DEFINITION. Control: NOP, FACK, FCLR (44_control.md R171 to R173). -/

namespace Sys2Proof.Machine

/-- NOP (R171). -/
def execNop (s : State) : Result := .next (s.finish .ok)

/-- FACK (R172): report and acknowledge the newly latched faults; FAULT keeps its bits. -/
def execFack (s : State) : Result :=
  .next ({ s with res0 := s.faultNew.setWidth 32, res1 := 0, faultNew := 0 }.finish .ok)

/-- FCLR (R173): clear all faults as a batch; CFGERR keeps its value. -/
def execFclr (s : State) : Result :=
  .next ({ s with fault := 0, faultNew := 0 }.finish .ok)

end Sys2Proof.Machine
end

