-- ==== Sys2Proof/Machine/Emcy.lean ====
section
/-! DEFINITION. Emcy: the EMCY composer: EALARM, ECLEAR, EFORCE, ECOBID (43_emcy_sync.md R151 to R159). -/

namespace Sys2Proof.Machine

/-- The EMCY frame over the old slot bytes (R151): code, error register, manufacturer field, 0. -/
def emcyFrame (d : FrameBuf) (code : BitVec 16) (errReg : Byte) (mfr : Word) : FrameBuf :=
  putBits (putBits (putBits (putBits d 0 16 (code.setWidth 64)) 16 8 (errReg.setWidth 64)) 24 32
    (mfr.setWidth 64)) 56 8 0

/-- ComposeEmcy() (R151). -/
def State.composeEmcy (s : State) : State :=
  s.modSlot s.params.emcyS fun sl =>
    { sl with
      id := cobId s.emcyCobId, len := 8, inht := s.emcyInh,
      data := emcyFrame sl.data s.emcyCode s.emcyErrReg s.emcyMfr,
      txOk := false, txst := .ready }

/-- The EMCY gate is open (R152). -/
def State.gateOpen (s : State) : Bool :=
  (s.slot s.params.emcyS).txst == .idle && !(s.slot s.params.emcyS).inh

/-- The end of an EMCY update: the frame when the COB-ID is valid, OK_NOTX when it is not (R153, R155, R158). -/
def State.emcySend (s : State) : State :=
  if cobInvalid s.emcyCobId then s.finish .okNoTx else s.composeEmcy.finish .ok

/-- The closed gate turns an EMCY command away; it is tested only while the COB-ID is valid (R152, R158). -/
def State.emcyBlocked (s : State) : Bool := !cobInvalid s.emcyCobId && !s.gateOpen

/-- The EMCY registers after an alarm (R153): the class and manufacturer bits accumulate, the code replaces
the old one. -/
def State.raiseAlarm (s : State) (code : BitVec 16) : State :=
  { s with
    emcyErrReg := s.emcyErrReg ||| s.arg0.extractLsb' 0 8
    emcyMfr := s.emcyMfr ||| s.arg1
    emcyCode := code
    alarms := true }

/-- EALARM would change nothing (R154). -/
def State.isDuplicate (s : State) (code : BitVec 16) : Bool :=
  s.alarms && (s.raiseAlarm code).emcyErrReg == s.emcyErrReg && (s.raiseAlarm code).emcyMfr == s.emcyMfr
    && code == s.emcyCode

/-- EALARM (R153), with the de-duplication of R154. -/
def execEalarm (code : BitVec 16) (s : State) : Result :=
  .next <|
    if s.isDuplicate code then s.finish .dup
    else if s.emcyBlocked then s.finish .busy
    else (s.raiseAlarm code).emcySend

/-- The EMCY registers after "all alarms cleared" (R155). -/
def State.clearAlarms (s : State) : State :=
  { s with emcyErrReg := 0, emcyMfr := 0, emcyCode := 0, alarms := false }

/-- ECLEAR (R155). -/
def execEclear (s : State) : Result :=
  .next <|
    if !s.alarms then s.finish .ok
    else if s.emcyBlocked then s.finish .busy
    else s.clearAlarms.emcySend

/-- EFORCE (R156). -/
def execEforce (s : State) : Result :=
  .next <|
    if s.emcyErrReg = 0 then s.finish .ok
    else if cobInvalid s.emcyCobId then s.finish .okNoTx
    else if !s.gateOpen then s.finish .busy
    else s.composeEmcy.finish .ok

/-- ECOBID (R157): a bad COB-ID is stored with INVALID set and latched. -/
def execEcobid (s : State) : Result :=
  .next <|
    if cobInvalid s.arg0 then { s with emcyCobId := s.arg0 }.finish .ok
    else if cobFrame s.arg0 || inRanges s.params.emcyReserved (cobId s.arg0) then
      (State.latch { s with emcyCobId := cobInvalidate s.arg0 } .emcyCobId).finish .errCobId
    else { s with emcyCobId := s.arg0 }.finish .ok

end Sys2Proof.Machine
end

