-- ==== Sys2Proof/Machine/PdoConfig.lean ====
section
/-! DEFINITION. PdoConfig: the PDO configuration compiler, PCREATE and PDESTROY (41_pdo_config.md R101 to R117). -/

namespace Sys2Proof.Machine

/-! ### Transmission types -/

/-- legalType(kind, t) (R104). -/
def legalType (k : PdoKind) (t : BitVec 8) : Bool :=
  match k with
  | .rx => t.toNat ≤ 240 || t.toNat == 254 || t.toNat == 255
  | .tx => t.toNat ≤ 240 || 252 ≤ t.toNat

/-- isSync(kind, t) (R104). -/
def isSync (k : PdoKind) (t : BitVec 8) : Bool := t.toNat ≤ 240 || (k == .tx && t.toNat == 252)

/-- class(t) for a legal transmission type of a TPDO (R103). -/
def classOf (t : BitVec 8) : TxClass :=
  if t.toNat = 0 then .syncAcyc
  else if t.toNat ≤ 240 then .syncCyc
  else if t.toNat = 252 then .syncRtr
  else if t.toNat = 253 then .asyncRtr
  else .event

/-- NCYC (R106): the type of a cyclic PDO, else 0. -/
def ncycOf (t : BitVec 8) : BitVec 8 := if t.toNat ≤ 240 then t else 0

/-- legalSyncStart(v) (R105). -/
def legalSyncStart (v : BitVec 8) : Bool := v.toNat ≤ 240

/-! ### One mapping entry -/

/-- WCODE of a data element of W bytes (R112). -/
def wCode (w : Nat) : BitVec 4 :=
  if w = 1 then 0 else if w = 2 then 1 else if w = 4 then 2 else 3

/-- SEL = WCODE + 4*UNAL + 8*HK (R112). -/
def selector (w : Nat) (addr : Word) (hooked : Bool) : BitVec 4 :=
  wCode w + (if addr.toNat % w ≠ 0 then 4 else 0) + (if hooked then 8 else 0)

/-- A dummy element (R109). -/
def dummyElem (off w : Nat) : Elem :=
  { kind := .dummy, off := off, w := w, addr := 0, sel := 0, hookId := none }

/-- A data element (R112). -/
def dataElem (off w : Nat) (r : OdEntry) : Elem :=
  { kind := .data, off := off, w := w, addr := r.addr, sel := selector w r.addr r.hook.isSome,
    hookId := r.hook }

/-- The attribute checks of R110, passed. -/
def attributesOk (k : PdoKind) (r : OdEntry) (bits : Nat) : Bool :=
  r.map
    && (match k with
        | .rx => r.wr && !r.lock
        | .tx => r.rd)
    && (bits == 8 || bits == 16 || bits == 32 || bits == 64) && bits == 8 * r.size

/-- The hook initialisation of R111, accepted. -/
def hookOk (p : Params) (k : PdoKind) (r : OdEntry) : Bool :=
  match r.hook with
  | none => true
  | some h => p.hookInit h k

/-- The legal bit lengths of a dummy entry (R109): whole bytes, 1 to 8 of them. -/
def dummyBitsOk (bits : Nat) : Bool := bits != 0 && bits % 8 == 0 && bits ≤ 64

/-- CompileEntry(kind, p, e, m, off) after its capacity check (R109 to R112). -/
def compileEntry (p : Params) (k : PdoKind) (m : Word) (off : Nat) : Except CfgCode Elem :=
  match p.lookup (mapIndex m) (mapSub m) with
  | none => .error .internalError
  | some r =>
    if r.dummy then
      if k == .tx then .error .internalError
      else if !dummyBitsOk (mapBits m) then .error .internalError
      else .ok (dummyElem off (mapBits m / 8))
    else if !attributesOk k r (mapBits m) then .error .internalError
    else if !hookOk p k r then .error .hookProcessingFail
    else .ok (dataElem off (mapBits m / 8) r)

/-- What the entries of one PDO compile to: its elements, its length, and the running element count. -/
structure Compiled where
  elems : List Elem
  off   : Nat
  nelem : Nat
  deriving DecidableEq, Repr

/-- The entry loop of CompilePdo (R106, R108): entry e at frame offset `off` with `nelem` elements held. -/
def compileEntries (p : Params) (k : PdoKind) : List Word → Nat → Nat → Nat → Except (CfgCode × Nat) Compiled
  | [], off, nelem, _ => .ok { elems := [], off := off, nelem := nelem }
  | m :: ms, off, nelem, e =>
    if p.elemCap < nelem + 1 then .error (.outOfMemory, e)
    else
      match compileEntry p k m off with
      | .error c => .error (c, e)
      | .ok el =>
        if 8 < off + el.w then .error (.pdoLengthExceed, e)
        else
          match compileEntries p k ms (off + el.w) (nelem + 1) (e + 1) with
          | .error x => .error x
          | .ok c => .ok { c with elems := el :: c.elems }

/-! ### One PDO -/

/-- The checks of CompilePdo before the entry loop (R106, in R107's order): the first that fails. -/
def headError (k : PdoKind) (d : PdoDef) (syncStart : BitVec 8) : Option CfgCode :=
  if cobFrame d.comm then some .invalidCobId
  else if !legalType k d.ttype then some .invalidTxType
  else if k == .tx && (d.ttype.toNat == 252 || d.ttype.toNat == 253) && !cobRtrEn d.comm then
    some .rtrNotValid
  else if k == .tx && !legalSyncStart syncStart then some .invalidSyncStart
  else if d.mapCnt.toNat < 1 || 8 < d.mapCnt.toNat then some .invalidMapCount
  else none

/-- CompilePdo(kind, p) (R106) for a PDO that is not INVALID. -/
def compilePdo (p : Params) (k : PdoKind) (idx : Nat) (d : PdoDef) (syncStart : BitVec 8) (nelem : Nat) :
    Except CfgFail Compiled :=
  match headError k d syncStart with
  | some c => .error { code := c, kind := k, idx := idx, entry := none }
  | none =>
    match compileEntries p k (d.map.toList.take d.mapCnt.toNat) 0 nelem 0 with
    | .error (c, e) => .error { code := c, kind := k, idx := idx, entry := some e }
    | .ok c => .ok c

/-- STG_RX[p] (R106). -/
def stageRx (d : PdoDef) (c : Compiled) : RxEntry :=
  { totLen := c.off, sync := isSync .rx d.ttype, elems := c.elems }

/-- STG_TX[p] (R106), with the runtime fields as Commit sets them (R115). -/
def stageTx (d : TxDef) (c : Compiled) : TxEntry :=
  { totLen := c.off, sync := isSync .tx d.base.ttype, cls := classOf d.base.ttype,
    ncyc := ncycOf d.base.ttype, chg := d.chg, elems := c.elems,
    syncCnt := ncycOf d.base.ttype, req := false, primed := false, prev := 0 }

/-- The RPDO loop of R102 from index `i` with `nelem` elements held. -/
def compileRxs (p : Params) : List PdoDef → Nat → Nat → Except CfgFail (List (Option RxEntry) × Nat)
  | [], _, nelem => .ok ([], nelem)
  | d :: ds, i, nelem =>
    if cobInvalid d.comm then
      match compileRxs p ds (i + 1) nelem with
      | .error f => .error f
      | .ok (es, n) => .ok (none :: es, n)
    else
      match compilePdo p .rx i d 0 nelem with
      | .error f => .error f
      | .ok c =>
        match compileRxs p ds (i + 1) c.nelem with
        | .error f => .error f
        | .ok (es, n) => .ok (some (stageRx d c) :: es, n)

/-- The TPDO loop of R102 from index `j` with `nelem` elements held. -/
def compileTxs (p : Params) : List TxDef → Nat → Nat → Except CfgFail (List (Option TxEntry) × Nat)
  | [], _, nelem => .ok ([], nelem)
  | d :: ds, j, nelem =>
    if cobInvalid d.base.comm then
      match compileTxs p ds (j + 1) nelem with
      | .error f => .error f
      | .ok (es, n) => .ok (none :: es, n)
    else
      match compilePdo p .tx j d.base d.syncStart nelem with
      | .error f => .error f
      | .ok c =>
        match compileTxs p ds (j + 1) c.nelem with
        | .error f => .error f
        | .ok (es, n) => .ok (some (stageTx d c) :: es, n)

/-! ### The set -/

/-- A PDO that takes part in the duplicate scan. -/
structure ScanItem where
  kind : PdoKind
  idx  : Nat
  id   : CobId
  deriving DecidableEq, Repr

/-- The PDOs not INVALID, in compile order (R113, 00_scope.md R16). -/
def scanItems (rx : List PdoDef) (tx : List TxDef) : List ScanItem :=
  (rx.zipIdx.filterMap fun (d, i) => if cobInvalid d.comm then none else some ⟨.rx, i, cobId d.comm⟩)
    ++ (tx.zipIdx.filterMap fun (d, j) =>
      if cobInvalid d.base.comm then none else some ⟨.tx, j, cobId d.base.comm⟩)

/-- CheckDuplicates() (R113): the first PDO whose identifier an earlier one has. -/
def firstDuplicate (seen : List CobId) : List ScanItem → Option ScanItem
  | [] => none
  | x :: xs => if seen.contains x.id then some x else firstDuplicate (seen ++ [x.id]) xs

/-- The staged set (R101: STG_RX and STG_TX). -/
structure Staged where
  rx : List (Option RxEntry)
  tx : List (Option TxEntry)
  deriving DecidableEq, Repr

/-- The whole compilation of R102: every RPDO, every TPDO, then the duplicate scan. -/
def compileSet (p : Params) (rx : List PdoDef) (tx : List TxDef) : Except CfgFail Staged :=
  match compileRxs p rx 0 0 with
  | .error f => .error f
  | .ok (srx, n) =>
    match compileTxs p tx 0 n with
    | .error f => .error f
    | .ok (stx, _) =>
      match firstDuplicate [] (scanItems rx tx) with
      | some x => .error { code := .duplicatedCobId, kind := x.kind, idx := x.idx, entry := none }
      | none => .ok { rx := srx, tx := stx }

/-- Fail(code, kind, p [, e]) (R114). -/
def State.failCreate (s : State) (f : CfgFail) : State :=
  (State.latch { s with cfgErr := f.word } .pdoCfg).finish .cfgFail

/-- Commit() on an RPDO's slot (R115). -/
def commitRxSlot (d : PdoDef) (c : Option RxEntry) (sl : Slot) : Slot :=
  { sl with
    new := false, ovr := false, rtr := false, hpRx := false, rtrReg := false,
    id := if c.isSome then cobId d.comm else sl.id,
    reg := c.isSome }

/-- Commit() on a TPDO's slot (R115). -/
def commitTxSlot (d : TxDef) (c : Option TxEntry) (sl : Slot) : Slot :=
  match c with
  | some c =>
    { sl with
      id := cobId d.base.comm, len := c.totLen, inht := d.inhibit, rtrReg := cobRtrEn d.base.comm,
      rtr := false, reg := false, new := false, ovr := false }
  | none => { sl with rtrReg := false, rtr := false, reg := false, new := false, ovr := false }

/-- Commit() (R115): each slot is written once, so the two loops are one pass over the slots. -/
def State.commit (s : State) (st : Staged) : State :=
  { s with
    crx := st.rx
    ctx := st.tx
    rxCnt := s.rxCnt.map fun _ => 0
    txCnt := s.txCnt.map fun _ => 0
    slots := s.slots.mapIdx fun k sl =>
      if k < s.params.nRpdo then commitRxSlot (s.rxDef k) (st.rx.getD k none) sl
      else if s.params.isTxSlot k then
        commitTxSlot (s.txDef (k - s.params.nRpdo)) (st.tx.getD (k - s.params.nRpdo) none) sl
      else sl
    chain := []
    chainCur := none
    active := true
    cfgErr := 0 }

/-- Some TPDO slot is Sending (R102). -/
def State.someTxSending (s : State) : Bool :=
  (List.range s.params.nTpdo).any fun j => (s.slot (s.params.slotTx j)).txst == .sending

/-- PCREATE (R102): all or nothing. -/
def execPcreate (s : State) : Result :=
  .next <|
    if s.active then s.finish .errState
    else if s.someTxSending then s.finish .busy
    else
      match compileSet s.params s.defRx s.defTx with
      | .error f => s.failCreate f
      | .ok st => (s.commit st).finish .ok

/-- PDESTROY on an RPDO's slot (R116). -/
def destroyRxSlot (sl : Slot) : Slot := { sl with reg := false, new := false, ovr := false }

/-- PDESTROY on a TPDO's slot (R116): a queued or handed frame is withdrawn, one on the bus is not. -/
def destroyTxSlot (sl : Slot) : Slot :=
  { sl with
    rtrReg := false, rtr := false,
    txst := match sl.txst with
      | .filling => .idle
      | .ready => .idle
      | .idle => .idle
      | .sending => .sending }

/-- The release of an active set (R116). -/
def State.destroySet (s : State) : State :=
  { s with
    slots := s.slots.mapIdx fun k sl =>
      if k < s.params.nRpdo then destroyRxSlot sl
      else if s.params.isTxSlot k then destroyTxSlot sl
      else sl
    crx := s.crx.map fun _ => none
    ctx := s.ctx.map fun _ => none
    chain := []
    chainCur := none
    active := false }

/-- PDESTROY (R116): always OK. -/
def execPdestroy (s : State) : Result :=
  .next ((if s.active then s.destroySet else s).finish .ok)

end Sys2Proof.Machine
end

