-- ==== Sys2Proof/Machine/PdoRuntime.lean ====
section
/-! DEFINITION. PdoRuntime: the PDO real-time engine: element transfers, decode, encode, triggers, the transmission
chain, PTXREQ, PTASK and the RT step (42_pdo_runtime.md R127 to R147). -/

namespace Sys2Proof.Machine

/-! ### Element transfers -/

/-- The value DecodeElem stores: the frame field, through the hook where one is configured (R128). -/
def decodedValue (p : Params) (d : FrameBuf) (el : Elem) : DWord :=
  if el.hooked then p.hookRx (el.hookId.getD 0) el.w (getBits d (8 * el.off) (8 * el.w))
  else getBits d (8 * el.off) (8 * el.w)

/-- DecodeElem(s, el) on frame bytes `d` (R128). -/
def decodeElem (d : FrameBuf) (el : Elem) (s : State) : Result :=
  match el.kind with
  | .dummy => .next s
  | .data => memWrite s el.addr el.w (decodedValue s.params d el)

/-- The elements of one PDO in mapping order (R130). -/
def decodeElems (d : FrameBuf) : List Elem → State → Result
  | [], s => .next s
  | el :: els, s => andThen (decodeElem d el s) (decodeElems d els)

/-- The value EncodeElem puts into the frame for a value read from process memory (R129). -/
def encodedValue (p : Params) (el : Elem) (v : DWord) : DWord :=
  if el.hooked then p.hookTx (el.hookId.getD 0) el.w v else v

/-- EncodeElem(buf, el) (R129). -/
def encodeElem (s : State) (buf : FrameBuf) (el : Elem) : Except Fault FrameBuf :=
  match el.kind with
  | .dummy => .ok buf
  | .data =>
    match memRead s el.addr el.w with
    | .error f => .error f
    | .ok v => .ok (putBits buf (8 * el.off) (8 * el.w) (encodedValue s.params el v))

/-- The sample of a TPDO: its elements in mapping order into the buffer (R130, R133). -/
def encodeElems (s : State) : FrameBuf → List Elem → Except Fault FrameBuf
  | buf, [] => .ok buf
  | buf, el :: els =>
    match encodeElem s buf el with
    | .error f => .error f
    | .ok buf' => encodeElems s buf' els

/-! ### Receive decode -/

/-- A slot's frame is consumed: NEW and OVR are cleared, and an overrun latches SW_OVR (R131, R135). -/
def State.consumeNew (s : State) (k : Nat) : State :=
  if (s.slot k).ovr then (s.modSlot k fun sl => { sl with new := false, ovr := false }).latch .swOvr
  else s.modSlot k fun sl => { sl with new := false, ovr := false }

/-- DecodeRx(i) (R131). -/
def decodeRx (i : Nat) (s : State) : Result :=
  match s.rxEntry i with
  | none => .next s
  | some c =>
    if (s.slot (s.params.slotRx i)).len ≠ c.totLen then
      .next ((s.consumeNew (s.params.slotRx i)).latch .pdoLen)
    else
      andThen (decodeElems (s.slot (s.params.slotRx i)).data c.elems (s.consumeNew (s.params.slotRx i)))
        fun s1 => .next (s1.countRx i)

/-- Decode RPDO i if it is compiled with this SYNC bit and its slot has a frame (R132, R135, R146). -/
def decodeIfNew (sync : Bool) (i : Nat) (s : State) : Result :=
  match s.rxEntry i with
  | none => .next s
  | some c =>
    if c.sync == sync && (s.slot (s.params.slotRx i)).new then decodeRx i s else .next s

/-! ### Transmit encode -/

/-- The mode of EncodeTx (R133). -/
inductive TxMode where
  | sync
  | async
  deriving DecidableEq, Repr

/-- Where a marked frame goes: handed to the transport, or Filling until its turn comes (R133). -/
def TxMode.state : TxMode → TxState
  | .async => .ready
  | .sync => .filling

/-- The slot of a marked sample (R133). -/
def markSlot (mode : TxMode) (buf : FrameBuf) (totLen : Nat) (sl : Slot) : Slot :=
  { sl with data := buf, len := totLen, txOk := false, txst := mode.state }

/-- CHAIN <- CHAIN ++ [j] for a synchronous frame (R133). -/
def State.queueTx (s : State) (j : Nat) : TxMode → State
  | .async => s
  | .sync => { s with chain := s.chain ++ [j] }

/-- The writes of a marked sample (R133): PREV, TXCNT, the slot, and the chain. -/
def State.markTx (s : State) (j : Nat) (mode : TxMode) (buf : FrameBuf) (totLen : Nat) : State :=
  ((((s.modTx j fun c => { c with prev := buf, primed := true }).countTx j).modSlot (s.params.slotTx j)
    (markSlot mode buf totLen)).queueTx j mode)

/-- EncodeTx(j, mode) (R133): nothing while the slot is not Idle (R134), nothing for an unchanged sample
under CHG (R138). -/
def encodeTx (j : Nat) (mode : TxMode) (s : State) : Result :=
  match s.txEntry j with
  | none => .next s
  | some c =>
    if (s.slot (s.params.slotTx j)).txst ≠ .idle then .next s
    else
      match encodeElems s 0 c.elems with
      | .error f => .fault f
      | .ok buf =>
        if c.chg && c.primed && samePrefix c.totLen buf c.prev then .next s
        else .next (s.markTx j mode buf c.totLen)

/-! ### Triggers -/

/-- classTerm (R137). -/
def classTerm (c : TxEntry) (hit : Bool) : Bool :=
  match c.cls with
  | .syncCyc => hit
  | .syncAcyc => c.chg
  | .syncRtr => false
  | .asyncRtr => false
  | .event => c.chg

/-- Eligible(j, hit) (R137). -/
def eligible (c : TxEntry) (sl : Slot) (hit : Bool) : Bool := c.req || sl.rtr || classTerm c hit

/-- Consume(j) (R139). -/
def State.consumeTrigger (s : State) (j : Nat) : State :=
  (s.modTx j fun c => { c with req := false }).modSlot (s.params.slotTx j) fun sl =>
    { sl with rtr := false }

/-- The SYNC counter of a cyclic TPDO after one SYNC, and whether it hit (R136). -/
def syncTick (c : TxEntry) : BitVec 8 × Bool :=
  match c.cls with
  | .syncCyc => if c.syncCnt - 1 = 0 then (c.ncyc, true) else (c.syncCnt - 1, false)
  | .syncAcyc => (c.syncCnt, false)
  | .syncRtr => (c.syncCnt, false)
  | .asyncRtr => (c.syncCnt, false)
  | .event => (c.syncCnt, false)

/-- Encode TPDO j if it is eligible, then consume its trigger (R136, R139, R146). -/
def evaluateTx (j : Nat) (mode : TxMode) (hit : Bool) (s : State) : Result :=
  match s.txEntry j with
  | none => .next s
  | some c =>
    andThen
      (if eligible c (s.slot (s.params.slotTx j)) hit then encodeTx j mode s else .next s)
      fun s1 => .next (s1.consumeTrigger j)

/-- SyncTx(j) (R136). -/
def syncTx (j : Nat) (c : TxEntry) (s : State) : Result :=
  evaluateTx j .sync (syncTick c).2 (s.modTx j fun c => { c with syncCnt := (syncTick c).1 })

/-- One TPDO of the RT step (R135). -/
def syncTxIf (j : Nat) (s : State) : Result :=
  match s.txEntry j with
  | none => .next s
  | some c => if c.sync then syncTx j c s else .next s

/-- One TPDO of PTASK (R146). -/
def asyncTxIf (j : Nat) (s : State) : Result :=
  match s.txEntry j with
  | none => .next s
  | some c => if c.sync then .next s else evaluateTx j .async false s

/-! ### The transmission chain -/

/-- IssueChain() (R140), with its two conditions: no chained frame is handed and one waits. -/
def State.issueChain (s : State) : State :=
  match s.chainCur, s.chain with
  | none, j :: rest =>
    { s.modSlot (s.params.slotTx j) fun sl => { sl with txst := .ready } with
      chain := rest, chainCur := some j }
  | _, _ => s

/-- The chain advance when the transport completes slot k (R141). -/
def State.advanceChain (s : State) (k : Nat) : State :=
  match s.chainCur with
  | none => s
  | some j =>
    if k = s.params.slotTx j then State.issueChain { s with chainCur := none } else s

/-! ### Commands and the RT step -/

/-- PTXREQ (R145). -/
def execPtxreq (tpdo : Nat) (s : State) : Result :=
  .next <|
    if s.params.nTpdo ≤ tpdo then s.finish .errArg
    else if (s.txEntry tpdo).isNone then s.finish .errState
    else (s.modTx tpdo fun c => { c with req := true }).finish .ok

/-- The asynchronous pass of an active set: every decode before every encode (R146). -/
def asyncPass (s : State) : Result :=
  andThen (forEach (decodeIfNew false) (List.range s.params.nRpdo) s) fun s1 =>
    forEach asyncTxIf (List.range s1.params.nTpdo) s1

/-- PTASK (R146): always OK. -/
def execPtask (s : State) : Result :=
  if s.active then andThen (asyncPass s) fun s1 => .next (s1.finish .ok)
  else .next (s.finish .ok)

/-- The synchronous pass of an active set: decodes, encodes, then the chain begins (R135). -/
def syncPass (s : State) : Result :=
  andThen (forEach (decodeIfNew true) (List.range s.params.nRpdo) s) fun s1 =>
    andThen (forEach syncTxIf (List.range s1.params.nTpdo) s1) fun s2 => .next s2.issueChain

/-- The RT step (R135), enabled by NEW of the SYNC slot. -/
def rtStep (s : State) : Result :=
  if s.active then syncPass (s.consumeNew s.params.syncS) else .next (s.consumeNew s.params.syncS)

end Sys2Proof.Machine
end

