-- ==== Sys2Proof/Machine/Sync.lean ====
section
/-! DEFINITION. Sync: the SYNC receive slot: SCOBID, SVALID and Install (43_emcy_sync.md R160 to R164). -/

namespace Sys2Proof.Machine

/-- The SYNC slot with its registration (R163): a new registration starts empty. -/
def installSlot (fresh : Bool) (id : CobId) (sl : Slot) : Slot :=
  if fresh || sl.id != id then
    { sl with new := false, ovr := false, len := 0, id := id, reg := true, hpRx := true }
  else { sl with reg := true, hpRx := true }

/-- The SYNC slot without a registration (R163): a SYNC not yet consumed is discarded. -/
def removeSlot (sl : Slot) : Slot := { sl with reg := false, hpRx := false, new := false, ovr := false }

/-- Install() (R163): the SYNC registration follows validity and the COB-ID. -/
def State.install (s : State) : State :=
  if s.validIn && !cobInvalid s.syncCobId then
    { s.modSlot s.params.syncS (installSlot (!s.syncInstalled) (cobId s.syncCobId)) with syncInstalled := true }
  else { s.modSlot s.params.syncS removeSlot with syncInstalled := false }

/-- SCOBID (R161): a bad COB-ID is stored with INVALID set, latched, and removes the registration. -/
def execScobid (s : State) : Result :=
  .next <|
    if !cobInvalid s.arg0 && (cobFrame s.arg0 || inRanges s.params.syncReserved (cobId s.arg0)) then
      (State.latch { s with syncCobId := cobInvalidate s.arg0 } .syncCobId).install.finish .errCobId
    else (State.install { s with syncCobId := s.arg0 }).finish .ok

/-- SVALID (R162): ARG0[2:0] are LSS_ACTIVE, NMT_STOPPED and EC_BOOTUP. -/
def execSvalid (s : State) : Result :=
  .next ((State.install { s with validIn := s.arg0.extractLsb' 0 3 == 0 }).finish .ok)

end Sys2Proof.Machine
end

