-- ==== Sys2Proof/Machine/Dispatch.lean ====
section
/-! DEFINITION. Dispatch: the row of the opcode map a command runs (30_encoding.md R81, R84). -/

namespace Sys2Proof.Machine

def exec (i : Instr) (s : State) : Host.Outcome State Fault Refusal :=
  match i with
  | .nop => Sys2Proof.Machine.execNop s
  | .fget slot boff blen => Sys2Proof.Machine.execFget slot boff blen s
  | .fput slot boff blen => Sys2Proof.Machine.execFput slot boff blen s
  | .pcreate => Sys2Proof.Machine.execPcreate s
  | .pdestroy => Sys2Proof.Machine.execPdestroy s
  | .ptxreq tpdo => Sys2Proof.Machine.execPtxreq tpdo s
  | .ptask => Sys2Proof.Machine.execPtask s
  | .ealarm code => Sys2Proof.Machine.execEalarm code s
  | .eclear => Sys2Proof.Machine.execEclear s
  | .eforce => Sys2Proof.Machine.execEforce s
  | .ecobid => Sys2Proof.Machine.execEcobid s
  | .scobid => Sys2Proof.Machine.execScobid s
  | .svalid => Sys2Proof.Machine.execSvalid s
  | .fack => Sys2Proof.Machine.execFack s
  | .fclr => Sys2Proof.Machine.execFclr s

end Sys2Proof.Machine
end

