-- ==== Sys2Proof/Machine/Regs.lean ====
section
/-! DEFINITION. Regs: the register map and what each register reads as and stores (10_state.md R26 to R35, R40;
44_control.md R174, R175; 20_memory.md R62). -/

namespace Sys2Proof.Machine

/-- The core registers (R27). -/
inductive CoreReg where
  | id
  | cmd
  | status
  | arg0
  | arg1
  | res0
  | res1
  | fault
  | faultNew
  | irqEn
  | cfgErr
  | pdoStat
  | param
  | nodeId
  | emcyCobId
  | emcyErrReg
  | emcyMfr
  | emcyCode
  | emcyInh
  | emcyStat
  | syncCobId
  | syncCtrl
  deriving DecidableEq, Repr

/-- The registers of a PDO definition block (R32). -/
inductive PdoReg where
  | comm
  | ttype
  | mapCnt
  | cfg
  | map (e : Nat)
  | inhibit
  | syncStart
  | cnt
  | rtStat
  deriving DecidableEq, Repr

/-- The words of a slot window (R40). -/
inductive WinReg where
  | id
  | ctrl
  | data0
  | data1
  | inht
  | reserved
  deriving DecidableEq, Repr

/-- A mapped register (R26). -/
inductive Reg where
  | core (r : CoreReg)
  | rxDef (i : Nat) (r : PdoReg)
  | txDef (j : Nat) (r : PdoReg)
  | window (k : Nat) (r : WinReg)
  deriving DecidableEq, Repr

/-- The core registers' offsets (R27); every other word below 0x1000 is a hole. -/
def coreMap : List (Nat × CoreReg) :=
  [(0x000, .id), (0x004, .cmd), (0x008, .status), (0x00C, .arg0), (0x010, .arg1), (0x014, .res0),
   (0x018, .res1), (0x01C, .fault), (0x020, .faultNew), (0x024, .irqEn), (0x028, .cfgErr),
   (0x02C, .pdoStat), (0x030, .param), (0x034, .nodeId), (0x040, .emcyCobId), (0x044, .emcyErrReg),
   (0x048, .emcyMfr), (0x04C, .emcyCode), (0x050, .emcyInh), (0x054, .emcyStat), (0x060, .syncCobId),
   (0x064, .syncCtrl)]

/-- A word offset 0x00..0x3C inside a definition block (R32). -/
def pdoRegAt (off : Nat) : PdoReg :=
  if off = 0x00 then .comm
  else if off = 0x04 then .ttype
  else if off = 0x08 then .mapCnt
  else if off = 0x0C then .cfg
  else if off < 0x30 then .map ((off - 0x10) / 4)
  else if off = 0x30 then .inhibit
  else if off = 0x34 then .syncStart
  else if off = 0x38 then .cnt
  else .rtStat

/-- A word offset 0x00..0x1C inside a slot window (R40). -/
def winRegAt (off : Nat) : WinReg :=
  if off = 0x00 then .id
  else if off = 0x04 then .ctrl
  else if off = 0x08 then .data0
  else if off = 0x0C then .data1
  else if off = 0x10 then .inht
  else .reserved

/-- The RPDO block area: 0x40 bytes per PDO (R26). -/
def rxBlock (p : Params) (off : Nat) : Option Reg :=
  if off / 0x40 < p.nRpdo then some (.rxDef (off / 0x40) (pdoRegAt (off % 0x40))) else none

/-- The TPDO block area (R26). -/
def txBlock (p : Params) (off : Nat) : Option Reg :=
  if off / 0x40 < p.nTpdo then some (.txDef (off / 0x40) (pdoRegAt (off % 0x40))) else none

/-- The slot window area: 0x20 bytes per slot (R26). -/
def slotWindow (p : Params) (off : Nat) : Option Reg :=
  if off / 0x20 < p.nSlot then some (.window (off / 0x20) (winRegAt (off % 0x20))) else none

/-- The register at a byte address (R26), none where nothing is mapped or the address is not 4-byte-aligned
(R62). -/
def regAt (p : Params) (addr : BitVec 16) : Option Reg :=
  if addr.toNat % 4 ≠ 0 then none
  else if addr.toNat < 0x1000 then (coreMap.lookup addr.toNat).map .core
  else if addr.toNat < 0x2000 then rxBlock p (addr.toNat - 0x1000)
  else if addr.toNat < 0x3000 then txBlock p (addr.toNat - 0x2000)
  else if addr.toNat < 0x8000 then none
  else slotWindow p (addr.toNat - 0x8000)

/-! ### Reads -/

/-- PDOSTAT (R28). -/
def State.pdoStatWord (s : State) : Word :=
  flagAt 0 s.active ||| flagAt 1 s.chainCur.isSome ||| bitsAt 8 (BitVec.ofNat 6 (s.chainCur.getD 0)) |||
    bitsAt 16 (BitVec.ofNat 7 s.chain.length)

/-- PARAM (R28); MAX_MAP is 8. -/
def State.paramWord (s : State) : Word :=
  bitsAt 0 (BitVec.ofNat 8 s.params.nRpdo) ||| bitsAt 8 (BitVec.ofNat 8 s.params.nTpdo) |||
    bitsAt 16 (8#4) ||| bitsAt 20 (BitVec.ofNat 8 s.params.nSlot)

/-- SYNC_CTRL (R35). -/
def State.syncCtrlWord (s : State) : Word :=
  flagAt 0 s.syncInstalled ||| flagAt 1 s.resyncEn ||| flagAt 2 s.validIn

/-- What a core register reads as (R27 to R29, R34, R35). -/
def State.readCore (s : State) : CoreReg → Word
  | .id => 0x50444F01
  | .cmd => 0
  | .status => bitsAt 0 s.status.code
  | .arg0 => s.arg0
  | .arg1 => s.arg1
  | .res0 => s.res0
  | .res1 => s.res1
  | .fault => bitsAt 0 s.fault
  | .faultNew => bitsAt 0 s.faultNew
  | .irqEn => bitsAt 0 s.irqEn
  | .cfgErr => s.cfgErr
  | .pdoStat => s.pdoStatWord
  | .param => s.paramWord
  | .nodeId => bitsAt 0 s.params.nodeId
  | .emcyCobId => s.emcyCobId
  | .emcyErrReg => bitsAt 0 s.emcyErrReg
  | .emcyMfr => s.emcyMfr
  | .emcyCode => bitsAt 0 s.emcyCode
  | .emcyInh => bitsAt 0 s.emcyInh
  | .emcyStat => flagAt 0 s.alarms
  | .syncCobId => s.syncCobId
  | .syncCtrl => s.syncCtrlWord

/-- RTSTAT of an RPDO (R33). -/
def rxRtStat : Option RxEntry → Word
  | none => 0
  | some c => flagAt 0 true ||| flagAt 1 c.sync ||| bitsAt 4 (BitVec.ofNat 4 c.totLen)

/-- RTSTAT of a TPDO (R33). -/
def txRtStat : Option TxEntry → Word
  | none => 0
  | some c =>
    flagAt 0 true ||| flagAt 1 c.sync ||| bitsAt 4 (BitVec.ofNat 4 c.totLen) ||| bitsAt 8 c.syncCnt |||
      flagAt 16 c.req ||| flagAt 17 c.primed

/-- MAP[e] (R31). -/
def PdoDef.mapAt (d : PdoDef) (e : Nat) : Word := d.map.toList.getD e 0

/-- What a register of RPDO block i reads as (R32, R33). -/
def State.readRxDef (s : State) (i : Nat) : PdoReg → Word
  | .comm => (s.rxDef i).comm
  | .ttype => bitsAt 0 (s.rxDef i).ttype
  | .mapCnt => bitsAt 0 (s.rxDef i).mapCnt
  | .cfg => 0
  | .map e => (s.rxDef i).mapAt e
  | .inhibit => 0
  | .syncStart => 0
  | .cnt => s.rxCnt.getD i 0
  | .rtStat => rxRtStat (s.rxEntry i)

/-- What a register of TPDO block j reads as (R32, R33). -/
def State.readTxDef (s : State) (j : Nat) : PdoReg → Word
  | .comm => (s.txDef j).base.comm
  | .ttype => bitsAt 0 (s.txDef j).base.ttype
  | .mapCnt => bitsAt 0 (s.txDef j).base.mapCnt
  | .cfg => flagAt 0 (s.txDef j).chg
  | .map e => (s.txDef j).base.mapAt e
  | .inhibit => bitsAt 0 (s.txDef j).inhibit
  | .syncStart => bitsAt 0 (s.txDef j).syncStart
  | .cnt => s.txCnt.getD j 0
  | .rtStat => txRtStat (s.txEntry j)

/-- TXST as the window shows it (R39). -/
def TxState.code : TxState → BitVec 2
  | .idle => 0
  | .filling => 1
  | .ready => 2
  | .sending => 3

/-- CTRL of a slot window (R40). -/
def Slot.ctrlWord (sl : Slot) : Word :=
  bitsAt 0 (BitVec.ofNat 4 sl.len) ||| flagAt 4 sl.new ||| flagAt 5 sl.ovr ||| flagAt 6 sl.rtr |||
    flagAt 7 sl.txOk ||| flagAt 8 sl.txBlk ||| flagAt 9 sl.inh ||| bitsAt 10 sl.txst.code |||
    flagAt 12 sl.hpRx ||| flagAt 13 sl.vhpRx ||| flagAt 14 sl.reg ||| flagAt 15 sl.rtrReg

/-- What a word of slot window k reads as (R40). -/
def State.readWindow (s : State) (k : Nat) : WinReg → Word
  | .id => bitsAt 0 (s.slot k).id
  | .ctrl => (s.slot k).ctrlWord
  | .data0 => loWord (s.slot k).data
  | .data1 => hiWord (s.slot k).data
  | .inht => bitsAt 0 (s.slot k).inht
  | .reserved => 0

/-- A register's value (R174). -/
def State.readReg (s : State) : Reg → Word
  | .core r => s.readCore r
  | .rxDef i r => s.readRxDef i r
  | .txDef j r => s.readTxDef j r
  | .window k r => s.readWindow k r

/-! ### Writes other than to CMD -/

/-- Change DEF_RX[i]. -/
def State.modRxDef (s : State) (i : Nat) (f : PdoDef → PdoDef) : State :=
  { s with defRx := s.defRx.modify i f }

/-- Change DEF_TX[j]. -/
def State.modTxDef (s : State) (j : Nat) (f : TxDef → TxDef) : State :=
  { s with defTx := s.defTx.modify j f }

/-- The registers both kinds of block have (R32, R175): the writable bits of v are stored. -/
def PdoDef.write (d : PdoDef) (r : PdoReg) (v : Word) : PdoDef :=
  match r with
  | .comm => { d with comm := v }
  | .ttype => { d with ttype := v.extractLsb' 0 8 }
  | .mapCnt => { d with mapCnt := v.extractLsb' 0 8 }
  | .cfg => d
  | .map e => { d with map := d.map.setIfInBounds e v }
  | .inhibit => d
  | .syncStart => d
  | .cnt => d
  | .rtStat => d

/-- A TPDO's block (R32, R175). -/
def TxDef.write (d : TxDef) (r : PdoReg) (v : Word) : TxDef :=
  match r with
  | .comm => { d with base := d.base.write r v }
  | .ttype => { d with base := d.base.write r v }
  | .mapCnt => { d with base := d.base.write r v }
  | .cfg => { d with chg := v.getLsbD 0 }
  | .map _ => { d with base := d.base.write r v }
  | .inhibit => { d with inhibit := v.extractLsb' 0 16 }
  | .syncStart => { d with syncStart := v.extractLsb' 0 8 }
  | .cnt => d
  | .rtStat => d

/-- A write to a core register other than CMD (R175): read-only registers ignore it. -/
def State.writeCore (s : State) (r : CoreReg) (v : Word) : State :=
  match r with
  | .arg0 => { s with arg0 := v }
  | .arg1 => { s with arg1 := v }
  | .irqEn => { s with irqEn := v.extractLsb' 0 5 }
  | .emcyInh => { s with emcyInh := v.extractLsb' 0 16 }
  | .syncCtrl => { s with resyncEn := v.getLsbD 1 }
  | .id => s
  | .cmd => s
  | .status => s
  | .res0 => s
  | .res1 => s
  | .fault => s
  | .faultNew => s
  | .cfgErr => s
  | .pdoStat => s
  | .param => s
  | .nodeId => s
  | .emcyCobId => s
  | .emcyErrReg => s
  | .emcyMfr => s
  | .emcyCode => s
  | .emcyStat => s
  | .syncCobId => s

/-- A register write other than to CMD (R175); slot windows ignore it (R40). -/
def State.writeReg (s : State) (r : Reg) (v : Word) : State :=
  match r with
  | .core r => s.writeCore r v
  | .rxDef i r => s.modRxDef i fun d => d.write r v
  | .txDef j r => s.modTxDef j fun d => d.write r v
  | .window _ _ => s

end Sys2Proof.Machine
end

