-- ==== Sys2Proof/Machine/Agents.lean ====
section
/-! DEFINITION. Agents: what one step of each agent does (60_exceptions.md R186 to R203): the host's register
accesses, a command word, the transport's events, the application's writes and the reset input. -/

namespace Sys2Proof.Machine

/-- The agent is answered. -/
def State.answer (s : State) (r : Response) : State := { s with response := r }

/-! ### Host -/

/-- A command word written to CMD (30_encoding.md R84): the decoded command, or STATUS ILLEGAL and nothing
else (R86). -/
def runCommand (c : Word) (s : State) : Result :=
  match decode c with
  | .ok i => exec i s
  | .error _ => .next (s.finish .illegal)

/-- A host register read (20_memory.md R62, 44_control.md R174): the value, or a bus error; no register
changes. -/
def hostRead (addr : BitVec 16) (width : AccessWidth) (s : State) : State :=
  match width, regAt s.params addr with
  | .w32, some r => s.answer (.value (s.readReg r))
  | _, _ => s.answer .busError

/-- A host register write (20_memory.md R62, 44_control.md R175). -/
def hostWrite (addr : BitVec 16) (width : AccessWidth) (v : Word) (s : State) : Result :=
  match width, regAt s.params addr with
  | .w32, some (.core .cmd) => runCommand v (s.answer .written)
  | .w32, some r => .next ((s.writeReg r v).answer .written)
  | _, _ => .next (s.answer .busError)

/-! ### Transport -/

/-- EV_RX's new frame bytes: b_k for k below the length, the old byte above it (R198). -/
def receivedData (d : FrameBuf) (bytes : List Byte) : FrameBuf :=
  putBits d 0 (8 * bytes.length) (leBytes bytes)

/-- EV_RX (R198). -/
def evRx (k : Nat) (bytes : List Byte) (s : State) : State :=
  s.modSlot k fun sl =>
    { sl with
      ovr := sl.ovr || sl.new, len := bytes.length, data := receivedData sl.data bytes, new := true }

/-- EV_RTR (R199). -/
def evRtr (k : Nat) (s : State) : State := s.modSlot k fun sl => { sl with rtr := true }

/-- EV_TAKE (R200). -/
def evTake (k : Nat) (s : State) : State := s.modSlot k fun sl => { sl with txst := .sending }

/-- EV_DONE (R201), with the chain advance of 42_pdo_runtime.md R141. -/
def evDone (k : Nat) (ok : Bool) (s : State) : State :=
  (s.modSlot k fun sl => { sl with txst := .idle, txOk := ok }).advanceChain k

/-- EV_INH (R202). -/
def evInh (k : Nat) (b : Bool) (s : State) : State := s.modSlot k fun sl => { sl with inh := b }

/-- EV_BLK (R203). -/
def evBlk (k : Nat) (b : Bool) (s : State) : State := s.modSlot k fun sl => { sl with txBlk := b }

/-! ### Application and platform -/

/-- The bytes of an application write (R187). -/
def AppWidth.bytes : AppWidth → Nat
  | .b1 => 1
  | .b2 => 2
  | .b4 => 4
  | .b8 => 8

/-- The APP step (R187): process memory only.  R187 gives it for v < 2^(8w); DESIGN CHOICE (safe): a wider value is
taken too, and only its low w bytes are stored (notes/assumptions/19.md). -/
def appWrite (a : Word) (w : AppWidth) (v : DWord) (s : State) : State :=
  { s with mem := s.mem.writeBytes a w.bytes v }

/-- The reset input (70_reset_and_hazards.md R206): every piece of block state at its reset value with the
same parameters sampled (notes/assumptions/8.md); process memory is not changed, nor what the agents still have to
do. -/
def resetBlock (s : State) : State :=
  { State.resetWith s.params with mem := s.mem, inputs := s.inputs, response := s.response }

/-! ### One step -/

/-- The condition under which an agent may take a step (R191; the RT step: 42_pdo_runtime.md R135; the
transport's events: R198 to R203). -/
def enabled (x : Input) (s : State) : Bool :=
  match x with
  | .hostRead _ _ => true
  | .hostWrite _ _ _ => true
  | .rtStep => (s.slot s.params.syncS).new
  | .evRx k bytes => (s.slot k).reg && bytes.length ≤ 8
  | .evRtr k => (s.slot k).rtrReg
  | .evTake k => (s.slot k).txst == .ready && !(s.slot k).inh
  | .evDone k _ => (s.slot k).txst == .sending
  | .evInh k _ => s.params.isSendSlot k
  | .evBlk k _ => s.params.isSendSlot k
  | .app _ _ _ => true
  | .resetInput => true

/-- The effect of an enabled step (R190: one atomic step).  R186 and R190 name no step of the platform; DESIGN CHOICE
(unsafe): the reset input, too, is one whole step between the agents' steps, and cuts no command or RT step short
(notes/assumptions/20.md). -/
def perform (x : Input) (s : State) : Result :=
  match x with
  | .hostRead addr width => .next (hostRead addr width s)
  | .hostWrite addr width v => hostWrite addr width v s
  | .rtStep => rtStep s
  | .evRx k bytes => .next (evRx k bytes s)
  | .evRtr k => .next (evRtr k s)
  | .evTake k => .next (evTake k s)
  | .evDone k ok => .next (evDone k ok s)
  | .evInh k b => .next (evInh k b s)
  | .evBlk k b => .next (evBlk k b s)
  | .app a w v => .next (appWrite a w v s)
  | .resetInput => .next (resetBlock s)

/-- One step of one agent: an enabled step is taken; a step that is not enabled "is not taken" (20_memory.md
R75), and only the answer says so. -/
def runInput (x : Input) (s : State) : Result :=
  if enabled x s then perform x (s.answer .taken) else .next (s.answer .notEnabled)

/-- The next agent's step, in the order the schedule gives (R191); with nothing asked for, the block waits
(70_reset_and_hazards.md R208). -/
def runNext (s : State) : Result :=
  match s.inputs with
  | [] => .next s
  | x :: xs => runInput x { s with inputs := xs }

/-- The address of CMD (10_state.md R27). -/
def cmdAddr : BitVec 16 := 0x004

/-- The host's write of a command word to CMD. -/
def Input.command (c : Word) : Input := .hostWrite cmdAddr .w32 c

end Sys2Proof.Machine
end

