-- ==== Sys2Proof/Machine/Step.lean ====
section
/-! DEFINITION. Step: one step of the machine (60_exceptions.md R190, R191). -/

namespace Sys2Proof.Machine

/-- One step: the next agent's step of the schedule. -/
def step (s : State) : Host.Outcome State Fault Refusal := runNext s

/-- s with the host about to write this command word to CMD, ahead of what else is asked for: the block
fetches nothing (10_state.md R25), a command comes from the host's register write. -/
def State.withFetchWord (s : State) (nbits w : Nat) : State :=
  { s with inputs := Input.command (tableWord nbits w) :: s.inputs }

end Sys2Proof.Machine
end

