-- ==== Sys2Proof/Machine/Asm.lean ====
section
/-! DEFINITION. Asm: the listing notation of 30_encoding.md R88 to R90 as steps of the schedule: commands, register
accesses by name, and the pseudo-instructions' expansions. -/

namespace Sys2Proof.Machine

/-- The address of a register of R27, R32 or R40 by name (R89). -/
def addrOf : Reg → BitVec 16
  | .core r => BitVec.ofNat 16 (((coreMap.find? fun x => x.2 == r).map (·.1)).getD 0)
  | .rxDef i r => BitVec.ofNat 16 (0x1000 + 0x40 * i + pdoRegOffset r)
  | .txDef j r => BitVec.ofNat 16 (0x2000 + 0x40 * j + pdoRegOffset r)
  | .window k r => BitVec.ofNat 16 (0x8000 + 0x20 * k + winRegOffset r)
where
  /-- The offset of a definition register in its block (R32). -/
  pdoRegOffset : PdoReg → Nat
    | .comm => 0x00
    | .ttype => 0x04
    | .mapCnt => 0x08
    | .cfg => 0x0C
    | .map e => 0x10 + 4 * e
    | .inhibit => 0x30
    | .syncStart => 0x34
    | .cnt => 0x38
    | .rtStat => 0x3C
  /-- The offset of a word in a slot window (R40). -/
  winRegOffset : WinReg → Nat
    | .id => 0x00
    | .ctrl => 0x04
    | .data0 => 0x08
    | .data1 => 0x0C
    | .inht => 0x10
    | .reserved => 0x14

/-- `WR name, v` (R89). -/
def wr (r : Reg) (v : Word) : Input := .hostWrite (addrOf r) .w32 v

/-- `RD name` (R89). -/
def rd (r : Reg) : Input := .hostRead (addrOf r) .w32

/-- A command by its mnemonic (R88). -/
def cmd (i : Instr) : Input := .command (encode i)

/-- `LI64 v` (R90). -/
def li64 (v : DWord) : List Input := [wr (.core .arg0) (loWord v), wr (.core .arg1) (hiWord v)]

/-- `FPUTI s, boff, blen, v` (R90). -/
def fputi (slot boff blen : Nat) (v : DWord) : List Input := li64 v ++ [cmd (.fput slot boff blen)]

/-- `FGETB s, byte, n` (R90). -/
def fgetb (slot byte n : Nat) : List Input := [cmd (.fget slot (8 * byte) (8 * n))]

/-- `FPUTBI s, byte, n, v` (R90). -/
def fputbi (slot byte n : Nat) (v : DWord) : List Input := li64 v ++ [cmd (.fput slot (8 * byte) (8 * n))]

/-- `ALARM code, cls, mfr` (R90). -/
def alarm (code : BitVec 16) (cls mfr : Word) : List Input :=
  [wr (.core .arg0) cls, wr (.core .arg1) mfr, cmd (.ealarm code)]

/-- `SETEMCY v` (R90). -/
def setEmcy (v : Word) : List Input := [wr (.core .arg0) v, cmd .ecobid]

/-- `SETSYNC v` (R90). -/
def setSync (v : Word) : List Input := [wr (.core .arg0) v, cmd .scobid]

/-- `SYNCOK` (R90). -/
def syncOk : List Input := [wr (.core .arg0) 0, cmd .svalid]

/-- RPDO[i].REG or TPDO[i].REG (R89). -/
def defReg (k : PdoKind) (i : Nat) (r : PdoReg) : Reg :=
  match k with
  | .rx => .rxDef i r
  | .tx => .txDef i r

/-- `DEFPDO kind, i, cob, tt, n` (R90). -/
def defPdo (k : PdoKind) (i : Nat) (cob tt n : Word) : List Input :=
  [wr (defReg k i .comm) cob, wr (defReg k i .ttype) tt, wr (defReg k i .mapCnt) n]

/-- `DEFMAP kind, i, e, index, sub, bits` (R90). -/
def defMap (k : PdoKind) (i e index sub bits : Nat) : List Input :=
  [wr (defReg k i (.map e)) (BitVec.ofNat 32 (index * 2 ^ 16 + sub * 2 ^ 8 + bits))]

/-- `@APP addr, w, v` (R89, 60_exceptions.md R187). -/
def appIn (addr : Word) (w : AppWidth) (v : DWord) : Input := .app addr w v

end Sys2Proof.Machine
end

