-- ==== Sys2Proof/Safety.lean ====
section
/-! DEFINITION. Safety: what is true of every state a run reaches from reset: the invariants of 10_state.md R52
with the facts they rest on; what a step stores to; and the spec's tables in the terms the statements use (what
a mapping entry compiles to, a sample, an EMCY frame, a register's writable bits). -/

namespace Sys2Proof.Machine

/-! ### Sizes -/

/-- The parameters are in R5's ranges, every indexed piece of state has the size R23 gives it, LEN is 0..8
(R37), and process memory is in its canonical form. -/
structure ShapeInv (s : State) : Prop where
  params : s.params.wf
  slots  : s.slots.length = s.params.nSlot
  defRx  : s.defRx.length = s.params.nRpdo
  defTx  : s.defTx.length = s.params.nTpdo
  crx    : s.crx.length = s.params.nRpdo
  ctx    : s.ctx.length = s.params.nTpdo
  rxCnt  : s.rxCnt.length = s.params.nRpdo
  txCnt  : s.txCnt.length = s.params.nTpdo
  len    : ∀ k < s.params.nSlot, (s.slot k).len ≤ 8
  mem    : s.mem.wf = true

/-! ### Compiled entries -/

/-- An element's fields fit together (R44). -/
def Elem.wf (el : Elem) : Bool :=
  match el.kind with
  | .dummy => 1 ≤ el.w && el.w ≤ 8 && el.addr == 0 && el.sel == 0 && el.hookId.isNone
  | .data =>
    (el.w == 1 || el.w == 2 || el.w == 4 || el.w == 8) && el.sel == selector el.w el.addr el.hookId.isSome

/-- The elements cover the bytes from `off` to `tot` in order without gaps (R44). -/
def elemsTile (off tot : Nat) : List Elem → Bool
  | [] => off == tot
  | el :: els => el.off == off && el.wf && elemsTile (off + el.w) tot els

/-- A compiled RPDO is as R42 says. -/
def RxEntry.wf (c : RxEntry) : Bool :=
  1 ≤ c.totLen && c.totLen ≤ 8 && 1 ≤ c.elems.length && c.elems.length ≤ 8 && elemsTile 0 c.totLen c.elems

/-- The synchronous classes (R103). -/
def TxClass.isSync : TxClass → Bool
  | .syncAcyc => true
  | .syncCyc => true
  | .syncRtr => true
  | .asyncRtr => false
  | .event => false

/-- A compiled TPDO is as R43 says: its SYNC bit is its class's, only a cyclic one has a cycle count 1..240
and a SYNC counter 1..NCYC, and it has no dummy element (R109). -/
def TxEntry.wf (c : TxEntry) : Bool :=
  1 ≤ c.totLen && c.totLen ≤ 8 && 1 ≤ c.elems.length && c.elems.length ≤ 8 && elemsTile 0 c.totLen c.elems
    && c.elems.all (·.kind == .data) && c.sync == c.cls.isSync
    && (if c.cls == .syncCyc then
          1 ≤ c.ncyc.toNat && c.ncyc.toNat ≤ 240 && 1 ≤ c.syncCnt.toNat && c.syncCnt.toNat ≤ c.ncyc.toNat
        else c.ncyc == 0 && c.syncCnt == 0)

/-- The compiled elements of all PDOs (R108). -/
def State.elemCount (s : State) : Nat :=
  (s.crx.map fun c => (c.map fun c => c.elems.length).getD 0).sum
    + (s.ctx.map fun c => (c.map fun c => c.elems.length).getD 0).sum

/-- Every compiled entry is as R42 to R44 say, and together they fit ELEM_CAP (R108). -/
structure CompiledInv (s : State) : Prop where
  rx       : ∀ c ∈ s.crx, ∀ e ∈ c, e.wf = true
  tx       : ∀ c ∈ s.ctx, ∀ e ∈ c, e.wf = true
  capacity : s.elemCount ≤ s.params.elemCap

/-! ### The set and the transmission chain -/

/-- R52 (a) to (e), with what they rest on: a chained TPDO is synchronous; no frame is queued or handed
while no set is active (R115); the EMCY slot is never left in Filling (R39); and a synchronous TPDO frame the
transport holds is the chain's current one (R147 (d)). -/
structure ChainInv (s : State) : Prop where
  inactive  : s.active = false →
    (∀ c ∈ s.crx, c = none) ∧ (∀ c ∈ s.ctx, c = none) ∧ s.chain = [] ∧ s.chainCur = none
  queued    : ∀ j ∈ s.chain, j < s.params.nTpdo ∧ (s.slot (s.params.slotTx j)).txst = .filling ∧
    (s.txEntry j).any (·.sync) = true
  nodup     : s.chain.Nodup
  filling   : ∀ j < s.params.nTpdo, (s.slot (s.params.slotTx j)).txst = .filling → j ∈ s.chain
  current   : ∀ j ∈ s.chainCur, j < s.params.nTpdo ∧ (s.slot (s.params.slotTx j)).transportOwned = true ∧
    (s.txEntry j).any (·.sync) = true
  idle      : ∀ k < s.params.nSlot, (s.slot k).txst ≠ .idle → s.params.isSendSlot k = true
  emcy      : (s.slot s.params.emcyS).txst ≠ .filling
  withdrawn : s.active = false → ∀ j < s.params.nTpdo, (s.slot (s.params.slotTx j)).txst ≠ .ready
  chained   : ∀ j < s.params.nTpdo, (s.slot (s.params.slotTx j)).transportOwned = true →
    (s.txEntry j).any (·.sync) = true → s.chainCur = some j

/-! ### Registrations, reception, faults -/

/-- R52 (f) and (g), with what they rest on: only registered slots receive, the SYNC registration follows
its validity and COB-ID (R163, R164 (b)), VHPRX stays 0 (R38), and a fault bit not yet reported is a latched
one (R181, R182). -/
structure RegInv (s : State) : Prop where
  overrun    : ∀ k < s.params.nSlot, (s.slot k).ovr = true → (s.slot k).new = true
  received   : ∀ k < s.params.nSlot, (s.slot k).new = true → (s.slot k).reg = true
  requested  : ∀ k < s.params.nSlot, (s.slot k).rtr = true → (s.slot k).rtrReg = true
  rxReg      : ∀ i < s.params.nRpdo, (s.slot (s.params.slotRx i)).reg = (s.rxEntry i).isSome
  txRtr      : ∀ j < s.params.nTpdo, (s.slot (s.params.slotTx j)).rtrReg = true → (s.txEntry j).isSome = true
  regOnly    : ∀ k < s.params.nSlot, (s.slot k).reg = true → k < s.params.nRpdo ∨ k = s.params.syncS
  rtrRegOnly : ∀ k < s.params.nSlot, (s.slot k).rtrReg = true → s.params.isTxSlot k = true
  syncReg    : (s.slot s.params.syncS).reg = s.syncInstalled
  hpRx       : ∀ k < s.params.nSlot, (s.slot k).hpRx = (s.syncInstalled && k == s.params.syncS)
  vhpRx      : ∀ k < s.params.nSlot, (s.slot k).vhpRx = false
  installed  : s.syncInstalled = (s.validIn && !cobInvalid s.syncCobId)
  syncId     : s.syncInstalled = true → (s.slot s.params.syncS).id = cobId s.syncCobId
  faults     : s.faultNew &&& ~~~s.fault = 0

/-- R159 (b): an EMCY frame the transport holds has LEN 8 and a last byte 0. -/
structure EmcyInv (s : State) : Prop where
  frame : (s.slot s.params.emcyS).txst ≠ .idle →
    (s.slot s.params.emcyS).len = 8 ∧ byteAt (s.slot s.params.emcyS).data 7 = 0

/-- What is true of every state a run reaches. -/
structure Inv (s : State) : Prop where
  shape    : ShapeInv s
  compiled : CompiledInv s
  chain    : ChainInv s
  reg      : RegInv s
  emcy     : EmcyInv s

/-! ### What a step stores to process memory -/

/-- The addresses an element's decode stores to, and its encode reads (R67, R68, R128, R129). -/
def Elem.storeAddrs (el : Elem) : List Word :=
  match el.kind with
  | .dummy => []
  | .data => accessAddrs el.addr el.w

/-- RPDO i is decoded into memory by a pass over the PDOs with this SYNC bit (R131, R132). -/
def State.decodes (s : State) (sync : Bool) (i : Nat) : Bool :=
  match s.rxEntry i with
  | none => false
  | some c =>
    c.sync == sync && (s.slot (s.params.slotRx i)).new && (s.slot (s.params.slotRx i)).len == c.totLen

/-- The addresses such a pass stores to. -/
def State.storeAddrs (s : State) (sync : Bool) : List Word :=
  (List.range s.params.nRpdo).flatMap fun i =>
    if s.decodes sync i then (((s.rxEntry i).map (·.elems)).getD []).flatMap Elem.storeAddrs else []

/-- TPDO j is sampled by a pass over the PDOs with this SYNC bit (42_pdo_runtime.md R133, R134, R136, R137): it is
compiled with it and triggered, and its slot is Idle. -/
def State.samples (s : State) (sync : Bool) (j : Nat) : Bool :=
  match s.txEntry j with
  | none => false
  | some c =>
    c.sync == sync && (s.slot (s.params.slotTx j)).txst == .idle &&
      (c.req || (s.slot (s.params.slotTx j)).rtr || (c.cls == .syncCyc && sync && c.syncCnt == 1)
        || ((c.cls == .syncAcyc || c.cls == .event) && c.chg))

/-- The addresses such a pass reads. -/
def State.loadAddrs (s : State) (sync : Bool) : List Word :=
  (List.range s.params.nTpdo).flatMap fun j =>
    if s.samples sync j then (((s.txEntry j).map (·.elems)).getD []).flatMap Elem.storeAddrs else []

/-- The environment admits every access that such a pass makes (R70). -/
def State.passAdmitted (s : State) (sync : Bool) : Prop :=
  (∀ a ∈ s.storeAddrs sync, s.params.admitsWrite a = true) ∧
    ∀ a ∈ s.loadAddrs sync, s.params.admitsRead a = true

/-! ### What the compiler makes of a definition, without the compiler -/

/-- Entry `m` at frame offset `off` compiles to `el` in a PDO of kind `k` (41_pdo_config.md R109 to R112). -/
def Elem.follows (p : Params) (k : PdoKind) (m : Word) (off : Nat) (el : Elem) : Prop :=
  ∃ r, p.lookup (mapIndex m) (mapSub m) = some r ∧ el.off = off ∧ 8 * el.w = mapBits m ∧
    if r.dummy then
      k = .rx ∧ 1 ≤ el.w ∧ el.w ≤ 8 ∧ el.kind = .dummy ∧ el.addr = 0 ∧ el.sel = 0 ∧ el.hookId = none
    else
      r.map = true ∧ (k = .rx → r.wr = true ∧ r.lock = false) ∧ (k = .tx → r.rd = true) ∧
        (el.w = 1 ∨ el.w = 2 ∨ el.w = 4 ∨ el.w = 8) ∧ el.w = r.size ∧
        (∀ h ∈ r.hook, p.hookInit h k = true) ∧
        el.kind = .data ∧ el.addr = r.addr ∧ el.hookId = r.hook ∧
        2 ^ (el.sel.extractLsb' 0 2).toNat = el.w ∧
        el.sel.getLsbD 2 = decide (r.addr.toNat % el.w ≠ 0) ∧ el.sel.getLsbD 3 = r.hook.isSome

/-- The bytes the mapping entries before entry `e` occupy (R106: the running offset). -/
def PdoDef.bytesBefore (d : PdoDef) (e : Nat) : Nat := ((d.map.toList.take e).map fun m => mapBits m / 8).sum

/-- The elements follow the first MAPCNT mapping entries, in order and without gaps (R106, R112). -/
def PdoDef.elemsFollow (p : Params) (k : PdoKind) (d : PdoDef) (els : List Elem) : Prop :=
  els.length = d.mapCnt.toNat ∧
    ∀ e < d.mapCnt.toNat, ∃ el, els[e]? = some el ∧ el.follows p k (d.mapAt e) (d.bytesBefore e)

/-- The COB-IDs of the PDOs that are not INVALID, in compile order (R113, 00_scope.md R16). -/
def State.liveIds (s : State) : List CobId :=
  (s.defRx.filter fun d => !cobInvalid d.comm).map (fun d => cobId d.comm)
    ++ (s.defTx.filter fun d => !cobInvalid d.base.comm).map (fun d => cobId d.base.comm)

/-- A PDO definition with its kind and index; an RPDO has no sync start value (10_state.md R32). -/
structure PdoAt where
  kind      : PdoKind
  idx       : Nat
  base      : PdoDef
  syncStart : BitVec 8
  deriving DecidableEq, Repr

/-- The PDOs that are not INVALID, in compile order (R107, 00_scope.md R16). -/
def State.livePdos (s : State) : List PdoAt :=
  ((List.range s.params.nRpdo).map (fun i => PdoAt.mk .rx i (s.rxDef i) 0)
    ++ (List.range s.params.nTpdo).map fun j => PdoAt.mk .tx j (s.txDef j).base (s.txDef j).syncStart).filter
    fun x => !x.base.comm.getLsbD 31

/-- CFGERR's KIND bit (60_exceptions.md R178). -/
def PdoAt.kindBit (x : PdoAt) : Nat :=
  match x.kind with
  | .rx => 0
  | .tx => 1

/-- The CFGERR code of the first check before the entries that a PDO fails (R103 to R107); 0: it passes them. -/
def PdoAt.headCode (x : PdoAt) : Nat :=
  if x.base.comm.getLsbD 29 = true then 1
  else if 240 < x.base.ttype.toNat ∧ x.base.ttype.toNat < (match x.kind with | .rx => 254 | .tx => 252) then 3
  else if x.kind = .tx ∧ (x.base.ttype = 252 ∨ x.base.ttype = 253) ∧ x.base.comm.getLsbD 30 = false then 2
  else if x.kind = .tx ∧ 240 < x.syncStart.toNat then 6
  else if x.base.mapCnt = 0 ∨ 8 < x.base.mapCnt.toNat then 4
  else 0

/-- The CFGERR code of the first check that mapping entry `m` of a PDO of kind `k` fails (R107 to R111) when `held`
elements are compiled before it and the PDO's entries up to it occupy `bytes` bytes; 0: it passes. -/
def entryCode (p : Params) (k : PdoKind) (m : Word) (held bytes : Nat) : Nat :=
  if p.elemCap < held + 1 then 5
  else
    match p.lookup (mapIndex m) (mapSub m) with
    | none => 7
    | some r =>
      if r.dummy = true ∧ (k = .tx ∨ mapBits m = 0 ∨ mapBits m % 8 ≠ 0 ∨ 64 < mapBits m) then 7
      else if r.dummy = false ∧
          (r.map = false ∨ (k = .rx ∧ (r.wr = false ∨ r.lock = true)) ∨ (k = .tx ∧ r.rd = false) ∨
            mapBits m ∉ [8, 16, 32, 64] ∨ mapBits m ≠ 8 * r.size) then 7
      else if r.dummy = false ∧ ∃ h ∈ r.hook, p.hookInit h k = false then 9
      else if 8 < bytes then 8
      else 0

/-- The elements compiled before the q-th PDO of the compile order (R108: every entry counts). -/
def State.heldBefore (s : State) (q : Nat) : Nat := ((s.livePdos.take q).map fun x => x.base.mapCnt.toNat).sum

/-- The code of entry e of the q-th PDO. -/
def State.entryFault (s : State) (q : Nat) (x : PdoAt) (e : Nat) : Nat :=
  entryCode s.params x.kind (x.base.mapAt e) (s.heldBefore q + e) (x.base.bytesBefore (e + 1))

/-- The first n PDOs of the compile order pass every check of R106 to R111. -/
def State.passUpTo (s : State) (n : Nat) : Prop :=
  ∀ q < n, ∀ x ∈ s.livePdos[q]?,
    x.headCode = 0 ∧ ∀ e < x.base.mapCnt.toNat, s.entryFault q x e = 0

/-- PCREATE ends CFG_FAIL with this CFGERR word (R114). -/
def CreateFails (s : State) (cfgErr : Nat) : Prop :=
  ∃ t, exec .pcreate s = .next t ∧ t.status = .cfgFail ∧ t.cfgErr = BitVec.ofNat 32 cfgErr

/-- No TPDO frame is on the bus (R102). -/
def State.noneSending (s : State) : Prop := ∀ j < s.params.nTpdo, (s.slot (s.params.slotTx j)).txst ≠ .sending

/-! ### Samples and frames -/

/-- `buf` is the sample of a compiled TPDO over process memory `m` (42_pdo_runtime.md R129, R133, R147 (c)): each
element's bytes little-endian at its offset, through its hook where it has one, and 0 above TOTLEN. -/
def TxEntry.isSample (p : Params) (m : Memory) (c : TxEntry) (buf : FrameBuf) : Prop :=
  (∀ el ∈ c.elems, ∀ k < el.w,
      byteAt buf (el.off + k) =
        if el.hooked then byteAt (p.hookTx (el.hookId.getD 0) el.w (m.readBytes el.addr el.w)) k
        else m.read (el.addr + BitVec.ofNat 32 k).toNat) ∧
    ∀ k, c.totLen ≤ k → k < 8 → byteAt buf k = 0

/-- Byte k of what an element's decode stores (R128, R147 (b)). -/
def Elem.storedByte (p : Params) (d : FrameBuf) (el : Elem) (k : Nat) : Byte :=
  if el.hooked then byteAt (p.hookRx (el.hookId.getD 0) el.w (getBits d (8 * el.off) (8 * el.w))) k
  else byteAt d (el.off + k)

/-- What an element's decode stores, byte by byte (R68, R128). -/
def Elem.stored (p : Params) (d : FrameBuf) (el : Elem) : List (Word × Byte) :=
  match el.kind with
  | .dummy => []
  | .data => (List.range el.w).map fun k => (el.addr + BitVec.ofNat 32 k, el.storedByte p d k)

/-- What a pass over the PDOs with this SYNC bit stores, in the order it stores it (R130 to R132). -/
def State.storedBytes (s : State) (sync : Bool) : List (Word × Byte) :=
  (List.range s.params.nRpdo).flatMap fun i =>
    if s.decodes sync i then
      (((s.rxEntry i).map (·.elems)).getD []).flatMap (·.stored s.params (s.slot (s.params.slotRx i)).data)
    else []

/-- Process memory `m'` is `m` with these bytes stored one after another: at every address the last one stays. -/
def MemoryAfter (m m' : Memory) (stored : List (Word × Byte)) : Prop :=
  (∀ before a v after, stored = before ++ (a, v) :: after → a ∉ after.map (·.1) → m'.read a.toNat = v) ∧
    ∀ a : Word, a ∉ stored.map (·.1) → m'.read a.toNat = m.read a.toNat

/-- The fault bits a pass over the PDOs with this SYNC bit finds (R131): a frame of the wrong length, an
overrun. -/
def State.decodeFaults (s : State) (sync : Bool) (b : Nat) : Prop :=
  ∃ i < s.params.nRpdo, ∃ c, s.rxEntry i = some c ∧ c.sync = sync ∧ (s.slot (s.params.slotRx i)).new = true ∧
    (b = 0 ∧ (s.slot (s.params.slotRx i)).len ≠ c.totLen ∨ b = 1 ∧ (s.slot (s.params.slotRx i)).ovr = true)

/-- The eight bytes of an EMCY frame (43_emcy_sync.md R151). -/
def isEmcyFrame (d : FrameBuf) (code : BitVec 16) (errReg : Byte) (mfr : Word) : Prop :=
  (List.range 8).map (byteAt d) =
    [code.extractLsb' 0 8, code.extractLsb' 8 8, errReg, mfr.extractLsb' 0 8, mfr.extractLsb' 8 8,
      mfr.extractLsb' 16 8, mfr.extractLsb' 24 8, 0]

/-- The EMCY slot with the frame bytes `d` composed into it (R151). -/
def State.emcyMarked (s : State) (d : FrameBuf) : State :=
  { s with
    slots := s.slots.modify s.params.emcyS fun sl =>
      { sl with
        id := s.emcyCobId.extractLsb' 0 11, len := 8, data := d, inht := s.emcyInh, txOk := false,
        txst := .ready } }

/-- No alarm is recorded only while the EMCY registers are 0: ALARMS falls with them (R153, R155). -/
def AlarmInv (s : State) : Prop :=
  s.alarms = false → s.emcyErrReg = 0 ∧ s.emcyMfr = 0 ∧ s.emcyCode = 0

/-- `t` is `s` after Install with `t`'s validity and COB-ID (R163), but for those two, STATUS and the fault bits. -/
def InstallOutcome (s t : State) : Prop :=
  t = { s with
      status := t.status, fault := t.fault, faultNew := t.faultNew, validIn := t.validIn,
      syncCobId := t.syncCobId, syncInstalled := t.syncInstalled, slots := t.slots } ∧
    t.slots.length = s.slots.length ∧ (∀ k, k ≠ s.params.syncS → t.slot k = s.slot k) ∧
    t.syncInstalled = (t.validIn && !t.syncCobId.getLsbD 31) ∧
    (t.syncInstalled = true →
      (s.syncInstalled = true ∧ (s.slot s.params.syncS).id = t.syncCobId.extractLsb' 0 11 →
        t.slot s.params.syncS = { s.slot s.params.syncS with reg := true, hpRx := true }) ∧
      (s.syncInstalled = false ∨ (s.slot s.params.syncS).id ≠ t.syncCobId.extractLsb' 0 11 →
        t.slot s.params.syncS =
          { s.slot s.params.syncS with
            new := false, ovr := false, len := 0, id := t.syncCobId.extractLsb' 0 11, reg := true,
            hpRx := true })) ∧
    (t.syncInstalled = false →
      t.slot s.params.syncS =
        { s.slot s.params.syncS with reg := false, hpRx := false, new := false, ovr := false })

/-- Fault bit b (60_exceptions.md R180, R181) is latched on the way from `s` to `t`, and no other bit moves. -/
def Latched (b : Nat) (s t : State) : Prop :=
  ∀ i < 5, t.fault.getLsbD i = (s.fault.getLsbD i || i == b) ∧
    t.faultNew.getLsbD i = (s.faultNew.getLsbD i || (i == b && !s.fault.getLsbD b))

/-- From `s` to `t` the fault bits with `cond`, and no others, are latched (R181): FAULT takes the bit, FAULTNEW takes
it unless FAULT had it. -/
def FaultsLatched (s t : State) (cond : Nat → Prop) : Prop :=
  ∀ b < 5, (t.fault.getLsbD b = true ↔ s.fault.getLsbD b = true ∨ cond b) ∧
    (t.faultNew.getLsbD b = true ↔ s.faultNew.getLsbD b = true ∨ cond b ∧ s.fault.getLsbD b = false)

/-! ### Registers and steps -/

/-- STATUS.CODE by number (60_exceptions.md R177). -/
def Status.number : Status → Nat
  | .ok => 0
  | .illegal => 1
  | .errArg => 2
  | .busy => 3
  | .errState => 4
  | .cfgFail => 5
  | .errCobId => 6
  | .okNoTx => 7
  | .dup => 8

/-- TXST by number (10_state.md R39). -/
def TxState.number : TxState → Nat
  | .idle => 0
  | .filling => 1
  | .ready => 2
  | .sending => 3

/-- The core registers with their offsets (10_state.md R27), written out from the rule's table. -/
def coreOffsets : List (BitVec 16 × CoreReg) :=
  [(0x000, .id), (0x004, .cmd), (0x008, .status), (0x00C, .arg0), (0x010, .arg1), (0x014, .res0), (0x018, .res1),
    (0x01C, .fault), (0x020, .faultNew), (0x024, .irqEn), (0x028, .cfgErr), (0x02C, .pdoStat), (0x030, .param),
    (0x034, .nodeId)]
  ++ [(0x040, .emcyCobId), (0x044, .emcyErrReg), (0x048, .emcyMfr), (0x04C, .emcyCode), (0x050, .emcyInh),
    (0x054, .emcyStat), (0x060, .syncCobId), (0x064, .syncCtrl)]

/-- What the core registers read as (10_state.md R27 to R29, R34, R35): a register's number is the sum of its fields at
their bits, and every other bit is 0. -/
structure CoreValues (s : State) : Prop where
  id         : s.readReg (.core .id) = 0x50444F01
  cmd        : s.readReg (.core .cmd) = 0
  status     : (s.readReg (.core .status)).toNat = s.status.number
  arg0       : s.readReg (.core .arg0) = s.arg0
  arg1       : s.readReg (.core .arg1) = s.arg1
  res0       : s.readReg (.core .res0) = s.res0
  res1       : s.readReg (.core .res1) = s.res1
  fault      : (s.readReg (.core .fault)).toNat = s.fault.toNat
  faultNew   : (s.readReg (.core .faultNew)).toNat = s.faultNew.toNat
  irqEn      : (s.readReg (.core .irqEn)).toNat = s.irqEn.toNat
  cfgErr     : s.readReg (.core .cfgErr) = s.cfgErr
  pdoStat    : (s.readReg (.core .pdoStat)).toNat =
    s.active.toNat + 2 ^ 1 * s.chainCur.isSome.toNat + 2 ^ 8 * s.chainCur.getD 0 + 2 ^ 16 * s.chain.length
  param      : (s.readReg (.core .param)).toNat =
    s.params.nRpdo + 2 ^ 8 * s.params.nTpdo + 2 ^ 16 * 8 + 2 ^ 20 * (s.params.nRpdo + s.params.nTpdo + 3)
  nodeId     : (s.readReg (.core .nodeId)).toNat = s.params.nodeId.toNat
  emcyCobId  : s.readReg (.core .emcyCobId) = s.emcyCobId
  emcyErrReg : (s.readReg (.core .emcyErrReg)).toNat = s.emcyErrReg.toNat
  emcyMfr    : s.readReg (.core .emcyMfr) = s.emcyMfr
  emcyCode   : (s.readReg (.core .emcyCode)).toNat = s.emcyCode.toNat
  emcyInh    : (s.readReg (.core .emcyInh)).toNat = s.emcyInh.toNat
  emcyStat   : (s.readReg (.core .emcyStat)).toNat = s.alarms.toNat
  syncCobId  : s.readReg (.core .syncCobId) = s.syncCobId
  syncCtrl   : (s.readReg (.core .syncCtrl)).toNat =
    s.syncInstalled.toNat + 2 ^ 1 * s.resyncEn.toNat + 2 ^ 2 * s.validIn.toNat

/-- What the registers of a definition block read as that an RPDO and a TPDO share (10_state.md R30 to R33). -/
structure BlockValues (s : State) (reg : PdoReg → Reg) (d : PdoDef) (cnt : Word) : Prop where
  comm   : s.readReg (reg .comm) = d.comm
  ttype  : (s.readReg (reg .ttype)).toNat = d.ttype.toNat
  mapCnt : (s.readReg (reg .mapCnt)).toNat = d.mapCnt.toNat
  map    : ∀ e, (h : e < 8) → s.readReg (reg (.map e)) = d.map[e]
  cnt    : s.readReg (reg .cnt) = cnt

/-- What an RPDO's definition block reads as (10_state.md R32, R33). -/
structure RxBlockValues (s : State) (i : Nat) : Prop where
  block     : BlockValues s (.rxDef i) (s.rxDef i) (s.rxCnt.getD i 0)
  cfg       : s.readReg (.rxDef i .cfg) = 0
  inhibit   : s.readReg (.rxDef i .inhibit) = 0
  syncStart : s.readReg (.rxDef i .syncStart) = 0
  absent    : s.rxEntry i = none → s.readReg (.rxDef i .rtStat) = 0
  rtStat    : ∀ c, s.rxEntry i = some c →
    (s.readReg (.rxDef i .rtStat)).toNat = 1 + 2 ^ 1 * c.sync.toNat + 2 ^ 4 * c.totLen

/-- What a TPDO's definition block reads as (10_state.md R32, R33). -/
structure TxBlockValues (s : State) (j : Nat) : Prop where
  block     : BlockValues s (.txDef j) (s.txDef j).base (s.txCnt.getD j 0)
  cfg       : (s.readReg (.txDef j .cfg)).toNat = (s.txDef j).chg.toNat
  inhibit   : (s.readReg (.txDef j .inhibit)).toNat = (s.txDef j).inhibit.toNat
  syncStart : (s.readReg (.txDef j .syncStart)).toNat = (s.txDef j).syncStart.toNat
  absent    : s.txEntry j = none → s.readReg (.txDef j .rtStat) = 0
  rtStat    : ∀ c, s.txEntry j = some c →
    (s.readReg (.txDef j .rtStat)).toNat =
      1 + 2 ^ 1 * c.sync.toNat + 2 ^ 4 * c.totLen + 2 ^ 8 * c.syncCnt.toNat + 2 ^ 16 * c.req.toNat +
        2 ^ 17 * c.primed.toNat

/-- What a slot window reads as (10_state.md R40). -/
structure WindowValues (s : State) (k : Nat) : Prop where
  id       : (s.readReg (.window k .id)).toNat = (s.slot k).id.toNat
  ctrl     : (s.readReg (.window k .ctrl)).toNat =
    (s.slot k).len + 2 ^ 4 * (s.slot k).new.toNat + 2 ^ 5 * (s.slot k).ovr.toNat + 2 ^ 6 * (s.slot k).rtr.toNat +
      2 ^ 7 * (s.slot k).txOk.toNat + 2 ^ 8 * (s.slot k).txBlk.toNat + 2 ^ 9 * (s.slot k).inh.toNat +
      2 ^ 10 * (s.slot k).txst.number + 2 ^ 12 * (s.slot k).hpRx.toNat + 2 ^ 13 * (s.slot k).vhpRx.toNat +
      2 ^ 14 * (s.slot k).reg.toNat + 2 ^ 15 * (s.slot k).rtrReg.toNat
  data0    : ∀ b < 4, (s.readReg (.window k .data0)).extractLsb' (8 * b) 8 = byteAt (s.slot k).data b
  data1    : ∀ b < 4, (s.readReg (.window k .data1)).extractLsb' (8 * b) 8 = byteAt (s.slot k).data (4 + b)
  inht     : (s.readReg (.window k .inht)).toNat = (s.slot k).inht.toNat
  reserved : s.readReg (.window k .reserved) = 0

/-- The registers that exist (10_state.md R26, R27, R32, R36, R40). -/
def Reg.exists (p : Params) : Reg → Prop
  | .core _ => True
  | .rxDef i (.map e) => i < p.nRpdo ∧ e < 8
  | .rxDef i _ => i < p.nRpdo
  | .txDef j (.map e) => j < p.nTpdo ∧ e < 8
  | .txDef j _ => j < p.nTpdo
  | .window k _ => k < p.nSlot

/-- The writable bits of a register other than CMD (44_control.md R175). -/
def Reg.writable : Reg → Word
  | .core .arg0 => 0xFFFFFFFF
  | .core .arg1 => 0xFFFFFFFF
  | .core .irqEn => 0x0000001F
  | .core .emcyInh => 0x0000FFFF
  | .core .syncCtrl => 0x00000002
  | .rxDef _ .comm => 0xFFFFFFFF
  | .rxDef _ (.map _) => 0xFFFFFFFF
  | .rxDef _ .ttype => 0x000000FF
  | .rxDef _ .mapCnt => 0x000000FF
  | .txDef _ .comm => 0xFFFFFFFF
  | .txDef _ (.map _) => 0xFFFFFFFF
  | .txDef _ .ttype => 0x000000FF
  | .txDef _ .mapCnt => 0x000000FF
  | .txDef _ .cfg => 0x00000001
  | .txDef _ .inhibit => 0x0000FFFF
  | .txDef _ .syncStart => 0x000000FF
  | _ => 0

/-- The command word a step writes to CMD, if it is such a step (R27, R175). -/
def Input.commandWord : Input → Option Word
  | .hostWrite a .w32 v => if a = 0x004 then some v else none
  | _ => none

/-- A host register write. -/
def Input.isHostWrite : Input → Bool
  | .hostWrite _ _ _ => true
  | _ => false

/-- The TXST transitions one step can make (10_state.md R39): a row of the table, or two rows of one step
(Idle, Filling, Ready). -/
def TxState.stepsTo : TxState → TxState → Bool
  | .idle, .filling => true
  | .idle, .ready => true
  | .filling, .ready => true
  | .filling, .idle => true
  | .ready, .idle => true
  | .ready, .sending => true
  | .sending, .idle => true
  | a, b => a == b

end Sys2Proof.Machine
end

