-- ==== Sys2Proof/Certificates/Slice0/Obligations.lean ====
section
/-! DEFINITION. Obligations: what the provers are to prove of the model, from the numbered rules of spec/. -/

open Sys2Proof Sys2Proof.Machine

/-! ### Command encoding (30_encoding.md) -/

/-- R78, R81: the words of the opcode map, and of 95_test_vectors.md A1, A2, A6, A8, written out, decode to
their commands. -/
def Obligations.DecodeReadsTheOpcodeMap : Prop :=
  decode 0x12345600 = .ok .nop ∧ decode 0x040C0A01 = .ok (.fget 10 12 16) ∧
  decode 0x02380702 = .ok (.fput 7 56 8) ∧ decode 0x00000010 = .ok .pcreate ∧
  decode 0x00000011 = .ok .pdestroy ∧ decode 0x00000312 = .ok (.ptxreq 3) ∧
  decode 0xAB000013 = .ok .ptask ∧ decode 0xFFFF0020 = .ok (.ealarm 0xFFFF) ∧
  decode 0x00000021 = .ok .eclear ∧ decode 0x00000022 = .ok .eforce ∧ decode 0x00000023 = .ok .ecobid ∧
  decode 0x00000030 = .ok .scobid ∧ decode 0x00000031 = .ok .svalid ∧ decode 0x00000040 = .ok .fack ∧
  decode 0x00000041 = .ok .fclr

/-- R78: every command at every operand value its fields admit is read back from its word. -/
def Obligations.DecodeEncodeRoundTrip : Prop :=
  ∀ i : Instr, i.wellFormed = true → decode (encode i) = .ok i

/-- R79: a command is the word's listed bits (R78: format N 0xFF, P 0xFFFF, F 0x1FFFFFFF, E 0xFFFF00FF), and
no other bit of the word matters. -/
def Obligations.DecodeIgnoresUnlistedBits : Prop :=
  ∀ (c : Word) (i : Instr), decode c = .ok i →
    usedMask i = (match i with
      | .fget _ _ _ => 0x1FFFFFFF
      | .fput _ _ _ => 0x1FFFFFFF
      | .ptxreq _ => 0x0000FFFF
      | .ealarm _ => 0xFFFF00FF
      | _ => 0x000000FF) ∧
    i.wellFormed = true ∧ encode i = c &&& usedMask i ∧
    ∀ c' : Word, c' &&& usedMask i = c &&& usedMask i → decode c' = .ok i

/-- R86: an OP outside the opcode map ends ILLEGAL and changes nothing else; R87: an OP inside it decodes. -/
def Obligations.UndefinedOpcodeIsIllegal : Prop :=
  ∀ (c : Word) (s : State),
    ((c.extractLsb' 0 8).toNat ∉ [0x00, 0x01, 0x02, 0x10, 0x11, 0x12, 0x13, 0x20, 0x21, 0x22, 0x23, 0x30, 0x31,
        0x40, 0x41] → runCommand c s = .next { s with status := .illegal }) ∧
    ((c.extractLsb' 0 8).toNat ∈ [0x00, 0x01, 0x02, 0x10, 0x11, 0x12, 0x13, 0x20, 0x21, 0x22, 0x23, 0x30, 0x31,
        0x40, 0x41] → ∃ i, decode c = .ok i)

/-- R84: a step in which the host writes a command word to CMD runs the decoded command on the state with the
write answered and taken off the schedule; an undefined OP ends ILLEGAL.  The schedule and its answer are the
model's own (notes/assumptions/1.md). -/
def Obligations.StepRunsTheDecodedCommand : Prop :=
  ∀ (s : State) (c : Word) (xs : List Input), s.inputs = .hostWrite 0x004 .w32 c :: xs →
    (∀ i, decode c = .ok i → step s = exec i { s with inputs := xs, response := .written }) ∧
    (∀ e, decode c = .error e →
      step s = .next { s with inputs := xs, response := .written, status := .illegal })

/-! ### Frame codec (40_frame_codec.md) -/

/-- R96: FGET returns the addressed frame bits (R91: bit b mod 8 of byte b div 8), zero-extended, whatever the
slot's LEN, flags and owner, and changes only RES0, RES1 and STATUS; ERR_ARG for a bad slot or field. -/
def Obligations.FgetReturnsTheField : Prop :=
  ∀ (s : State) (slot boff blen : Nat),
    (s.params.nSlot ≤ slot ∨ blen = 0 ∨ 64 < blen ∨ 64 < boff + blen →
      exec (.fget slot boff blen) s = .next { s with status := .errArg }) ∧
    (slot < s.params.nSlot → 1 ≤ blen → blen ≤ 64 → boff + blen ≤ 64 →
      ∃ r0 r1 : Word, exec (.fget slot boff blen) s = .next { s with res0 := r0, res1 := r1, status := .ok } ∧
        ∀ k < 64, (r1 ++ r0).getLsbD k =
          (decide (k < blen) && (byteAt (s.slot slot).data ((boff + k) / 8)).getLsbD ((boff + k) % 8)))

/-- R97: FPUT writes VAL64's low bits into the addressed frame bits of a slot the transport does not own, and
changes nothing else but STATUS; ERR_ARG for a bad slot or field, BUSY for a Ready or Sending slot. -/
def Obligations.FputWritesTheField : Prop :=
  ∀ (s : State) (slot boff blen : Nat),
    (s.params.nSlot ≤ slot ∨ blen = 0 ∨ 64 < blen ∨ 64 < boff + blen →
      exec (.fput slot boff blen) s = .next { s with status := .errArg }) ∧
    (slot < s.params.nSlot → 1 ≤ blen → blen ≤ 64 → boff + blen ≤ 64 →
      ((s.slot slot).txst = .ready ∨ (s.slot slot).txst = .sending →
        exec (.fput slot boff blen) s = .next { s with status := .busy }) ∧
      ((s.slot slot).txst = .idle ∨ (s.slot slot).txst = .filling →
        ∃ d : FrameBuf,
          exec (.fput slot boff blen) s =
            .next { s with slots := s.slots.modify slot fun sl => { sl with data := d }, status := .ok } ∧
          ∀ b < 64, (byteAt d (b / 8)).getLsbD (b % 8) =
            if boff ≤ b ∧ b < boff + blen then (s.arg1 ++ s.arg0).getLsbD (b - boff)
            else (byteAt (s.slot slot).data (b / 8)).getLsbD (b % 8)))

/-- R99: for legal fields, GetBits reads back what PutBits put, cut to the field; putting back what was read
changes nothing; and fields with disjoint bits commute and do not see each other. -/
def Obligations.CodecLaws : Prop :=
  ∀ (d : FrameBuf) (o l o' l' : Nat) (v v' : DWord), legalField o l = true → legalField o' l' = true →
    (getBits (putBits d o l v) o l).toNat = v.toNat % 2 ^ l ∧
    putBits d o l (getBits d o l) = d ∧
    (o + l ≤ o' ∨ o' + l' ≤ o →
      putBits (putBits d o l v) o' l' v' = putBits (putBits d o' l' v') o l v ∧
      getBits (putBits d o l v) o' l' = getBits d o' l')

/-- R95: a byte-aligned field is its bytes, little-endian, and PutBits of one writes those bytes and no other. -/
def Obligations.ByteAlignedFields : Prop :=
  ∀ (d : FrameBuf) (a n : Nat) (v : DWord), 1 ≤ n → a + n ≤ 8 →
    getBits d (8 * a) (8 * n) = leBytes ((List.range n).map fun k => byteAt d (a + k)) ∧
    (∀ k < n, byteAt (putBits d (8 * a) (8 * n) v) (a + k) = byteAt v k) ∧
    (∀ k < 8, k < a ∨ a + n ≤ k → byteAt (putBits d (8 * a) (8 * n) v) k = byteAt d k)

/-! ### PDO configuration (41_pdo_config.md) -/

/-- R102: PCREATE with an active set ends ERR_STATE, and with a TPDO frame on the bus BUSY. -/
def Obligations.CreateIsRefused : Prop :=
  ∀ s : State,
    (s.active = true → exec .pcreate s = .next { s with status := .errState }) ∧
    (s.active = false → (∃ j < s.params.nTpdo, (s.slot (s.params.slotTx j)).txst = .sending) →
      exec .pcreate s = .next { s with status := .busy })

/-- R102, R114, R117 (a): PCREATE either ends OK with every PDO that is not INVALID compiled and no fault
latched, or ends CFG_FAIL with CFGERR and the PDO_CFG latch written and nothing else changed. -/
def Obligations.CreateIsAllOrNothing : Prop :=
  ∀ s : State, ShapeInv s → s.active = false → s.noneSending →
    ∃ t, exec .pcreate s = .next t ∧
      ((t.status = .ok ∧ t.active = true ∧ t.cfgErr = 0 ∧ t.fault = s.fault ∧ t.faultNew = s.faultNew ∧
          (∀ i < s.params.nRpdo, (t.rxEntry i).isSome = !(s.rxDef i).comm.getLsbD 31) ∧
          (∀ j < s.params.nTpdo, (t.txEntry j).isSome = !(s.txDef j).base.comm.getLsbD 31)) ∨
        (t = { s with status := .cfgFail, cfgErr := t.cfgErr, fault := t.fault, faultNew := t.faultNew } ∧
          1 ≤ (t.cfgErr.extractLsb' 0 4).toNat ∧ (t.cfgErr.extractLsb' 0 4).toNat ≤ 10 ∧ Latched 4 s t))

/-- R115: when the set compiles, PCREATE ends OK with the compiled entries, the counters 0, the chain empty,
every PDO slot's registration and fields as Commit sets them, and nothing else changed; where R52's discipline
holds, every TPDO slot is Idle. -/
def Obligations.CommitInstallsTheSet : Prop :=
  ∀ (s : State) (st : Staged), ShapeInv s → s.active = false → s.noneSending →
    compileSet s.params s.defRx s.defTx = .ok st →
    ∃ t, exec .pcreate s = .next t ∧
      t = { s with
        status := .ok, active := true, chain := [], chainCur := none, cfgErr := 0, crx := st.rx, ctx := st.tx,
        rxCnt := List.replicate s.params.nRpdo 0, txCnt := List.replicate s.params.nTpdo 0, slots := t.slots } ∧
      t.slots.length = s.slots.length ∧
      (∀ i < s.params.nRpdo,
        t.slot (s.params.slotRx i) =
          { s.slot (s.params.slotRx i) with
            new := false, ovr := false, rtr := false, hpRx := false, rtrReg := false,
            reg := (t.rxEntry i).isSome,
            id := if (t.rxEntry i).isSome then (s.rxDef i).comm.extractLsb' 0 11
              else (s.slot (s.params.slotRx i)).id }) ∧
      (∀ j < s.params.nTpdo,
        (t.txEntry j = none →
          t.slot (s.params.slotTx j) =
            { s.slot (s.params.slotTx j) with
              rtrReg := false, rtr := false, reg := false, new := false, ovr := false }) ∧
        ∀ c, t.txEntry j = some c →
          t.slot (s.params.slotTx j) =
            { s.slot (s.params.slotTx j) with
              id := (s.txDef j).base.comm.extractLsb' 0 11, len := c.totLen, inht := (s.txDef j).inhibit,
              rtrReg := (s.txDef j).base.comm.getLsbD 30,
              rtr := false, reg := false, new := false, ovr := false } ∧
          c.syncCnt = c.ncyc ∧ c.req = false ∧ c.primed = false ∧ c.prev = 0) ∧
      (∀ k, s.params.emcyS ≤ k → t.slot k = s.slot k) ∧
      (ChainInv s → ∀ j < s.params.nTpdo, (t.slot (s.params.slotTx j)).txst = .idle)

/-- R103 to R112: what a PCREATE that ends OK leaves compiled is what the definitions say: type and class, cycle
count, length, and each element from its mapping entry and object-dictionary entry; and the definitions pass
R106's checks. -/
def Obligations.CompiledSetFollowsTheDefinitions : Prop :=
  ∀ s t : State, ShapeInv s → exec .pcreate s = .next t → t.status = .ok →
    (∀ i < s.params.nRpdo, ∀ c, t.rxEntry i = some c →
      (s.rxDef i).comm.getLsbD 29 = false ∧
      ((s.rxDef i).ttype.toNat ≤ 240 ∨ 254 ≤ (s.rxDef i).ttype.toNat) ∧
      1 ≤ (s.rxDef i).mapCnt.toNat ∧ (s.rxDef i).mapCnt.toNat ≤ 8 ∧
      c.sync = decide ((s.rxDef i).ttype.toNat ≤ 240) ∧
      c.totLen = (s.rxDef i).bytesBefore (s.rxDef i).mapCnt.toNat ∧ c.totLen ≤ 8 ∧
      (s.rxDef i).elemsFollow s.params .rx c.elems) ∧
    (∀ j < s.params.nTpdo, ∀ c, t.txEntry j = some c →
      (s.txDef j).base.comm.getLsbD 29 = false ∧
      ((s.txDef j).base.ttype.toNat ≤ 240 ∨ 252 ≤ (s.txDef j).base.ttype.toNat) ∧
      ((s.txDef j).base.ttype.toNat = 252 ∨ (s.txDef j).base.ttype.toNat = 253 →
        (s.txDef j).base.comm.getLsbD 30 = true) ∧
      (s.txDef j).syncStart.toNat ≤ 240 ∧
      1 ≤ (s.txDef j).base.mapCnt.toNat ∧ (s.txDef j).base.mapCnt.toNat ≤ 8 ∧
      c.cls = (if (s.txDef j).base.ttype.toNat = 0 then .syncAcyc
        else if (s.txDef j).base.ttype.toNat ≤ 240 then .syncCyc
        else if (s.txDef j).base.ttype.toNat = 252 then .syncRtr
        else if (s.txDef j).base.ttype.toNat = 253 then .asyncRtr else .event) ∧
      c.sync = decide ((s.txDef j).base.ttype.toNat ≤ 240 ∨ (s.txDef j).base.ttype.toNat = 252) ∧
      c.ncyc.toNat = (if (s.txDef j).base.ttype.toNat ≤ 240 then (s.txDef j).base.ttype.toNat else 0) ∧
      c.chg = (s.txDef j).chg ∧
      c.totLen = (s.txDef j).base.bytesBefore (s.txDef j).base.mapCnt.toNat ∧ c.totLen ≤ 8 ∧
      (s.txDef j).base.elemsFollow s.params .tx c.elems)

/-- R113, R117 (b), (c): with two PDOs that are not INVALID sharing a COB-ID, or with one whose mapped objects
total more than 8 bytes, PCREATE never makes the set active. -/
def Obligations.FaultyDefinitionsNeverActivate : Prop :=
  ∀ s : State, ShapeInv s → s.active = false →
    (¬ s.liveIds.Nodup ∨
      (∃ i < s.params.nRpdo, (s.rxDef i).comm.getLsbD 31 = false ∧
        8 < (s.rxDef i).bytesBefore (s.rxDef i).mapCnt.toNat) ∨
      (∃ j < s.params.nTpdo, (s.txDef j).base.comm.getLsbD 31 = false ∧
        8 < (s.txDef j).base.bytesBefore (s.txDef j).base.mapCnt.toNat)) →
    ∃ t, exec .pcreate s = .next t ∧ t.active = false ∧ t.status ≠ .ok ∧ t.crx = s.crx ∧ t.ctx = s.ctx ∧
      t.slots = s.slots

/-- R106 to R111, R113, R114, R178: the first check that fails, of the first PDO in compile order that fails one,
decides CFGERR: a check before the entries gives its code, KIND and IDX, an entry's check gives ENTRY and ENTRY_VALID
as well; with every PDO compiled, the first one whose COB-ID an earlier one has is reported as a duplicate. -/
def Obligations.CreateReportsTheFirstFailure : Prop :=
  ∀ s : State, ShapeInv s → s.active = false → s.noneSending →
    (∀ q x, s.livePdos[q]? = some x → s.passUpTo q →
      (x.headCode ≠ 0 → CreateFails s (x.headCode + 2 ^ 4 * x.kindBit + 2 ^ 8 * x.idx)) ∧
      (x.headCode = 0 → ∀ e < x.base.mapCnt.toNat, (∀ e' < e, s.entryFault q x e' = 0) → s.entryFault q x e ≠ 0 →
        CreateFails s
          (s.entryFault q x e + 2 ^ 4 * x.kindBit + 2 ^ 8 * x.idx + 2 ^ 16 * e + 2 ^ 19))) ∧
    (s.passUpTo s.livePdos.length → ∀ q x, s.livePdos[q]? = some x →
      ((s.livePdos.take q).map fun y => y.base.comm.extractLsb' 0 11).Nodup →
      x.base.comm.extractLsb' 0 11 ∈ (s.livePdos.take q).map (fun y => y.base.comm.extractLsb' 0 11) →
      CreateFails s (10 + 2 ^ 4 * x.kindBit + 2 ^ 8 * x.idx))

/-- R102, R106 to R113, R117 (b): PCREATE ends OK, with the set active, exactly when every PDO that is not INVALID
passes its checks (a mapping of exactly 8 bytes passes the length check) and no two of them share a COB-ID. -/
def Obligations.SoundDefinitionsActivate : Prop :=
  ∀ s : State, ShapeInv s → s.active = false → s.noneSending →
    ((∃ t, exec .pcreate s = .next t ∧ t.status = .ok ∧ t.active = true) ↔
      s.passUpTo s.livePdos.length ∧ s.liveIds.Nodup)

/-- R101, R117 (d): the outcome of PCREATE depends on the definitions and the parameters alone. -/
def Obligations.CreateDependsOnTheDefinitionsOnly : Prop :=
  ∀ s u : State, s.params = u.params → s.defRx = u.defRx → s.defTx = u.defTx →
    s.active = false → u.active = false → s.noneSending → u.noneSending →
    ∃ t v, exec .pcreate s = .next t ∧ exec .pcreate u = .next v ∧ t.status = v.status ∧ t.cfgErr = v.cfgErr ∧
      t.active = v.active ∧ (t.active = true → t.crx = v.crx ∧ t.ctx = v.ctx)

/-- R102, R221: with every definition INVALID, as after reset, PCREATE ends OK with an empty active set and no
slot registered for a PDO. -/
def Obligations.EmptyDefinitionsGiveAnEmptySet : Prop :=
  (∀ s : State, ShapeInv s → s.active = false → s.noneSending →
    (∀ d ∈ s.defRx, d.comm.getLsbD 31 = true) → (∀ d ∈ s.defTx, d.base.comm.getLsbD 31 = true) →
    ∃ t, exec .pcreate s = .next t ∧ t.status = .ok ∧ t.active = true ∧ (∀ i, t.rxEntry i = none) ∧
      (∀ j, t.txEntry j = none) ∧
      ∀ k < s.params.emcyS, (t.slot k).reg = false ∧ (t.slot k).rtrReg = false) ∧
  ∀ p : Params, p.wf → ∃ t, exec .pcreate (State.resetWith p) = .next t ∧ t.status = .ok ∧ t.active = true ∧
    (∀ i, t.rxEntry i = none) ∧ ∀ j, t.txEntry j = none

/-- R116: PDESTROY always ends OK; it releases an active set, withdrawing a queued or handed frame and leaving
one on the bus, and keeps the counters and the definitions. -/
def Obligations.DestroyReleasesTheSet : Prop :=
  ∀ s : State, ShapeInv s →
    (s.active = false → exec .pdestroy s = .next { s with status := .ok }) ∧
    (s.active = true → ∃ t, exec .pdestroy s = .next t ∧
      t = { s with
        status := .ok, active := false, chain := [], chainCur := none,
        crx := List.replicate s.params.nRpdo none, ctx := List.replicate s.params.nTpdo none,
        slots := t.slots } ∧
      t.slots.length = s.slots.length ∧
      (∀ i < s.params.nRpdo,
        t.slot (s.params.slotRx i) =
          { s.slot (s.params.slotRx i) with reg := false, new := false, ovr := false }) ∧
      (∀ j < s.params.nTpdo,
        t.slot (s.params.slotTx j) =
          { s.slot (s.params.slotTx j) with
            rtrReg := false, rtr := false,
            txst := if (s.slot (s.params.slotTx j)).txst = .sending then .sending else .idle }) ∧
      (∀ k, s.params.emcyS ≤ k → t.slot k = s.slot k))

/-! ### PDO runtime (42_pdo_runtime.md) -/

/-- R145: PTXREQ sets REQ of a compiled TPDO and changes nothing else but STATUS; ERR_ARG for a bad index,
ERR_STATE for a TPDO that is not compiled. -/
def Obligations.TransmitRequestSetsReq : Prop :=
  ∀ (s : State) (j : Nat),
    (s.params.nTpdo ≤ j → exec (.ptxreq j) s = .next { s with status := .errArg }) ∧
    (j < s.params.nTpdo → s.txEntry j = none → exec (.ptxreq j) s = .next { s with status := .errState }) ∧
    (∀ c, j < s.params.nTpdo → s.txEntry j = some c →
      ∃ t, exec (.ptxreq j) s = .next t ∧ t = { s with status := .ok, ctx := t.ctx } ∧
        t.ctx.length = s.ctx.length ∧ t.txEntry j = some { c with req := true } ∧
        ∀ j', j' ≠ j → t.txEntry j' = s.txEntry j')

/-- R144: with no active set PTASK changes only STATUS, PTXREQ fails, and the RT step consumes the SYNC and
stops. -/
def Obligations.InactiveSetMovesNoData : Prop :=
  ∀ s : State, ChainInv s → s.active = false →
    exec .ptask s = .next { s with status := .ok } ∧
    (∀ j < s.params.nTpdo, exec (.ptxreq j) s = .next { s with status := .errState }) ∧
    ((s.slot s.params.syncS).new = true → ∃ t, perform .rtStep s = .next t ∧
      t = { s with
        slots := s.slots.modify s.params.syncS fun sl => { sl with new := false, ovr := false },
        fault := t.fault, faultNew := t.faultNew } ∧
      ((s.slot s.params.syncS).ovr = false → t.fault = s.fault ∧ t.faultNew = s.faultNew) ∧
      ((s.slot s.params.syncS).ovr = true → Latched 1 s t))

/-- R131: DecodeRx consumes the frame, latches SW_OVR for an overrun and PDO_LEN for a wrong length, and only a
frame of the compiled length is stored, its elements' bytes through their hooks, and counted; where the
environment admits the stores of such a frame it completes. -/
def Obligations.DecodeStoresTheElements : Prop :=
  ∀ (s : State) (i : Nat) (c : RxEntry), s.mem.wf = true → s.rxEntry i = some c → c.wf = true →
    ((s.slot i).len = c.totLen → ∀ a ∈ c.elems.flatMap Elem.storeAddrs, s.params.admitsWrite a = true) →
    ∃ t, decodeRx i s = .next t ∧
      t = { s with
        slots := s.slots.modify i fun sl => { sl with new := false, ovr := false },
        fault := t.fault, faultNew := t.faultNew, mem := t.mem, rxCnt := t.rxCnt } ∧
      FaultsLatched s t (fun b => b = 0 ∧ (s.slot i).len ≠ c.totLen ∨ b = 1 ∧ (s.slot i).ovr = true) ∧
      ((s.slot i).len ≠ c.totLen → t.mem = s.mem ∧ t.rxCnt = s.rxCnt) ∧
      ((s.slot i).len = c.totLen →
        t.rxCnt = s.rxCnt.modify i (· + 1) ∧
        (∀ a : Word, a ∉ c.elems.flatMap Elem.storeAddrs → t.mem.read a.toNat = s.mem.read a.toNat) ∧
        ∀ (n : Nat) (el : Elem), c.elems[n]? = some el → el.kind = .data → ∀ k < el.w,
          el.addr + BitVec.ofNat 32 k ∉ (c.elems.drop (n + 1)).flatMap Elem.storeAddrs →
          t.mem.read (el.addr + BitVec.ofNat 32 k).toNat = el.storedByte s.params (s.slot i).data k)

/-- R146: where the environment admits the accesses it makes PTASK completes and ends OK; it leaves synchronous
and uncompiled PDOs, the EMCY, SYNC and scratch slots, the chain, and every byte that no decoded element stores to alone. -/
def Obligations.TaskPassCompletesAndFrames : Prop :=
  ∀ s : State, s.passAdmitted false →
    ∃ t, exec .ptask s = .next t ∧
      t = { s with
        status := .ok, slots := t.slots, ctx := t.ctx, rxCnt := t.rxCnt, txCnt := t.txCnt, fault := t.fault,
        faultNew := t.faultNew, mem := t.mem } ∧
      (∀ i < s.params.nRpdo, (s.rxEntry i).all (·.sync) = true →
        t.slot (s.params.slotRx i) = s.slot (s.params.slotRx i) ∧ t.rxCnt.getD i 0 = s.rxCnt.getD i 0) ∧
      (∀ j < s.params.nTpdo, (s.txEntry j).all (·.sync) = true →
        t.slot (s.params.slotTx j) = s.slot (s.params.slotTx j) ∧ t.txEntry j = s.txEntry j ∧
          t.txCnt.getD j 0 = s.txCnt.getD j 0) ∧
      (∀ k, s.params.emcyS ≤ k → t.slot k = s.slot k) ∧
      (∀ a : Word, a ∉ s.storeAddrs false → t.mem.read a.toNat = s.mem.read a.toNat)

/-- R131, R132, R146, R147 (b), R181: PTASK decodes exactly the asynchronous RPDOs whose slot holds a new frame: NEW and
OVR fall, a frame of the compiled length is counted and the bytes of its elements are what process memory then
holds, wrong lengths and overruns, and nothing else, are latched; RPDO slots keep the rest. -/
def Obligations.TaskPassDecodes : Prop :=
  ∀ s : State, ShapeInv s → s.passAdmitted false → s.active = true →
    ∃ t, exec .ptask s = .next t ∧ MemoryAfter s.mem t.mem (s.storedBytes false) ∧
      FaultsLatched s t (s.decodeFaults false) ∧
      ∀ i < s.params.nRpdo, ∀ c, s.rxEntry i = some c →
        (c.sync = false → (s.slot (s.params.slotRx i)).new = true →
          t.slot (s.params.slotRx i) = { s.slot (s.params.slotRx i) with new := false, ovr := false } ∧
          t.rxCnt.getD i 0 =
            (if (s.slot (s.params.slotRx i)).len = c.totLen then s.rxCnt.getD i 0 + 1
              else s.rxCnt.getD i 0)) ∧
        (c.sync = true ∨ (s.slot (s.params.slotRx i)).new = false →
          t.slot (s.params.slotRx i) = s.slot (s.params.slotRx i) ∧ t.rxCnt.getD i 0 = s.rxCnt.getD i 0)

/-- R133, R134, R137 to R139, R146, R147 (c): PTASK samples process memory, after the decodes, for each
asynchronous TPDO that is requested, by REQ, RTR or change-driven sending, and whose slot is Idle; the sample
is handed to the transport unless change-driven sending finds it unchanged; the trigger is consumed either
way. -/
def Obligations.TaskPassSends : Prop :=
  ∀ s : State, Inv s → s.passAdmitted false → s.active = true →
    ∃ t, exec .ptask s = .next t ∧
      ∀ j < s.params.nTpdo, ∀ c, s.txEntry j = some c → c.sync = false →
        ∃ buf : FrameBuf, c.isSample s.params t.mem buf ∧
          if (c.req || (s.slot (s.params.slotTx j)).rtr || c.cls == .event && c.chg) = true ∧
              (s.slot (s.params.slotTx j)).txst = .idle ∧
              ¬ (c.chg = true ∧ c.primed = true ∧ ∀ k < c.totLen, byteAt buf k = byteAt c.prev k) then
            t.slot (s.params.slotTx j) =
              { s.slot (s.params.slotTx j) with
                data := buf, len := c.totLen, txOk := false, txst := .ready, rtr := false } ∧
            t.txEntry j = some { c with prev := buf, primed := true, req := false } ∧
            t.txCnt.getD j 0 = s.txCnt.getD j 0 + 1
          else
            t.slot (s.params.slotTx j) = { s.slot (s.params.slotTx j) with rtr := false } ∧
            t.txEntry j = some { c with req := false } ∧ t.txCnt.getD j 0 = s.txCnt.getD j 0

/-- R133 to R139: the RT step consumes the SYNC, counts every cyclic TPDO's SYNC counter down and reloads it, and
samples, marks and consumes the synchronous TPDOs as PTASK does the asynchronous ones; a marked frame is
Filling, or Ready when it is the chain's current one; any other slot keeps its TXST, but for the one the chain hands
over; wrong lengths and overruns, and nothing else, are latched. -/
def Obligations.RtStepSends : Prop :=
  ∀ s : State, Inv s → s.passAdmitted true → s.active = true → (s.slot s.params.syncS).new = true →
    ∃ t, perform .rtStep s = .next t ∧
      (t.slot s.params.syncS).new = false ∧ (t.slot s.params.syncS).ovr = false ∧
      FaultsLatched s t (fun b => s.decodeFaults true b ∨ b = 1 ∧ (s.slot s.params.syncS).ovr = true) ∧
      ∀ j < s.params.nTpdo, ∀ c, s.txEntry j = some c → c.sync = true →
        ∃ (buf : FrameBuf) (cnt : BitVec 8), c.isSample s.params t.mem buf ∧
          cnt.toNat = (if c.cls = .syncCyc then
            (if c.syncCnt.toNat = 1 then c.ncyc.toNat else c.syncCnt.toNat - 1) else 0) ∧
          if (c.req || (s.slot (s.params.slotTx j)).rtr || c.cls == .syncCyc && c.syncCnt == 1 ||
                c.cls == .syncAcyc && c.chg) = true ∧
              (s.slot (s.params.slotTx j)).txst = .idle ∧
              ¬ (c.chg = true ∧ c.primed = true ∧ ∀ k < c.totLen, byteAt buf k = byteAt c.prev k) then
            t.slot (s.params.slotTx j) =
              { s.slot (s.params.slotTx j) with
                data := buf, len := c.totLen, txOk := false, rtr := false,
                txst := if t.chainCur = some j then .ready else .filling } ∧
            t.txEntry j = some { c with prev := buf, primed := true, req := false, syncCnt := cnt } ∧
            t.txCnt.getD j 0 = s.txCnt.getD j 0 + 1
          else
            t.slot (s.params.slotTx j) =
              { s.slot (s.params.slotTx j) with
                rtr := false,
                txst := if s.chainCur = none ∧ t.chainCur = some j then .ready
                  else (s.slot (s.params.slotTx j)).txst } ∧
            t.txEntry j = some { c with req := false, syncCnt := cnt } ∧
            t.txCnt.getD j 0 = s.txCnt.getD j 0

/-- R70, R131, R132, R135, R147 (b), R164 (a), R181: a requested RT step is taken exactly when the SYNC slot holds a new
frame, which only a frame delivered to it while INSTALLED = 1 puts there; where the environment admits the accesses
it makes the RT step completes; it consumes the SYNC, decodes exactly the synchronous RPDOs whose slot holds a new
frame, stores the bytes of their elements and no other, latches their wrong lengths, their overruns and a missed SYNC
and nothing else, and leaves asynchronous and uncompiled PDOs, the EMCY and scratch slots and the registers alone.  The
schedule and its answers are the model's own (notes/assumptions/1.md), and so is that an RT step which is not enabled
is dropped and answered so (notes/assumptions/7.md). -/
def Obligations.RtStepDecodesAndFrames : Prop :=
  (∀ (s : State) (xs : List Input), s.inputs = .rtStep :: xs →
    ((s.slot s.params.syncS).new = true →
      step s = perform .rtStep { s with inputs := xs, response := .taken }) ∧
    ((s.slot s.params.syncS).new = false → step s = .next { s with inputs := xs, response := .notEnabled })) ∧
  (∀ s t : State, RegInv s → step s = .next t →
    (s.slot s.params.syncS).new = false → (t.slot t.params.syncS).new = true →
    s.syncInstalled = true ∧ ∃ bytes, s.inputs.head? = some (.evRx s.params.syncS bytes)) ∧
  ∀ s : State, Inv s → s.passAdmitted true → s.active = true → (s.slot s.params.syncS).new = true →
    ∃ t, perform .rtStep s = .next t ∧
      t = { s with
        slots := t.slots, ctx := t.ctx, rxCnt := t.rxCnt, txCnt := t.txCnt, chain := t.chain,
        chainCur := t.chainCur, fault := t.fault, faultNew := t.faultNew, mem := t.mem } ∧
      t.slot s.params.syncS = { s.slot s.params.syncS with new := false, ovr := false } ∧
      (∀ i < s.params.nRpdo, ∀ c, s.rxEntry i = some c → c.sync = true →
        (s.slot (s.params.slotRx i)).new = true →
        t.slot (s.params.slotRx i) = { s.slot (s.params.slotRx i) with new := false, ovr := false } ∧
        t.rxCnt.getD i 0 =
          (if (s.slot (s.params.slotRx i)).len = c.totLen then s.rxCnt.getD i 0 + 1 else s.rxCnt.getD i 0)) ∧
      (∀ i < s.params.nRpdo,
        (s.rxEntry i).all (fun c => !c.sync) = true ∨ (s.slot (s.params.slotRx i)).new = false →
        t.slot (s.params.slotRx i) = s.slot (s.params.slotRx i) ∧ t.rxCnt.getD i 0 = s.rxCnt.getD i 0) ∧
      (∀ j < s.params.nTpdo, (s.txEntry j).all (fun c => !c.sync) = true →
        t.slot (s.params.slotTx j) = s.slot (s.params.slotTx j) ∧ t.txEntry j = s.txEntry j ∧
          t.txCnt.getD j 0 = s.txCnt.getD j 0) ∧
      (∀ k, k = s.params.emcyS ∨ s.params.scrS ≤ k → t.slot k = s.slot k) ∧
      MemoryAfter s.mem t.mem (s.storedBytes true) ∧
      FaultsLatched s t (fun b => s.decodeFaults true b ∨ b = 1 ∧ (s.slot s.params.syncS).ovr = true)

/-- R135, R140: the RT step appends the TPDOs it marks to the chain in ascending order, and then, when no chained
frame is handed, hands the chain's head to the transport. -/
def Obligations.RtStepQueuesTheChain : Prop :=
  ∀ s t : State, Inv s → s.active = true → perform .rtStep s = .next t →
    ∃ marked : List Nat, marked.Pairwise (· < ·) ∧
      (∀ j < s.params.nTpdo, j ∈ marked ↔ t.txCnt.getD j 0 ≠ s.txCnt.getD j 0) ∧
      (∀ j ∈ marked, j < s.params.nTpdo) ∧
      match s.chainCur, s.chain ++ marked with
      | none, j :: rest => t.chainCur = some j ∧ t.chain = rest ∧ (t.slot (s.params.slotTx j)).txst = .ready
      | cur, q => t.chainCur = cur ∧ t.chain = q

/-! ### EMCY (43_emcy_sync.md) -/

/-- R151, R153, R154, R158: an EALARM that would change nothing ends DUP; any other, with the COB-ID valid, ends
BUSY while the gate is closed, and with the gate open takes the alarm into the EMCY registers (class and
manufacturer bits accumulate, the code replaces the old one) and hands the EMCY frame to the transport; with the
COB-ID INVALID it updates the registers, composes no frame and ends OK_NOTX. -/
def Obligations.AlarmRule : Prop :=
  ∀ (s : State) (code : BitVec 16),
    (s.alarms = true ∧ s.emcyErrReg ||| s.arg0.extractLsb' 0 8 = s.emcyErrReg ∧
        s.emcyMfr ||| s.arg1 = s.emcyMfr ∧ code = s.emcyCode →
      exec (.ealarm code) s = .next { s with status := .dup }) ∧
    (¬ (s.alarms = true ∧ s.emcyErrReg ||| s.arg0.extractLsb' 0 8 = s.emcyErrReg ∧
        s.emcyMfr ||| s.arg1 = s.emcyMfr ∧ code = s.emcyCode) →
      (s.emcyCobId.getLsbD 31 = false →
        (s.slot s.params.emcyS).txst ≠ .idle ∨ (s.slot s.params.emcyS).inh = true →
        exec (.ealarm code) s = .next { s with status := .busy }) ∧
      (s.emcyCobId.getLsbD 31 = false →
        (s.slot s.params.emcyS).txst = .idle → (s.slot s.params.emcyS).inh = false →
        ∃ d, isEmcyFrame d code (s.emcyErrReg ||| s.arg0.extractLsb' 0 8) (s.emcyMfr ||| s.arg1) ∧
          exec (.ealarm code) s =
            .next { s.emcyMarked d with
              emcyErrReg := s.emcyErrReg ||| s.arg0.extractLsb' 0 8, emcyMfr := s.emcyMfr ||| s.arg1,
              emcyCode := code, alarms := true, status := .ok }) ∧
      (s.emcyCobId.getLsbD 31 = true →
        exec (.ealarm code) s =
          .next { s with
            emcyErrReg := s.emcyErrReg ||| s.arg0.extractLsb' 0 8, emcyMfr := s.emcyMfr ||| s.arg1,
            emcyCode := code, alarms := true, status := .okNoTx }))

/-- R151, R155, R158: an ECLEAR with no alarm changes only STATUS; any other, with the COB-ID valid, ends BUSY
while the gate is closed, and with the gate open clears the EMCY registers and ALARMS and hands an all-zero frame to
the transport; with the COB-ID INVALID it clears them, composes no frame and ends OK_NOTX. -/
def Obligations.AlarmClearRule : Prop :=
  ∀ s : State,
    (s.alarms = false → exec .eclear s = .next { s with status := .ok }) ∧
    (s.alarms = true →
      (s.emcyCobId.getLsbD 31 = false →
        (s.slot s.params.emcyS).txst ≠ .idle ∨ (s.slot s.params.emcyS).inh = true →
        exec .eclear s = .next { s with status := .busy }) ∧
      (s.emcyCobId.getLsbD 31 = false →
        (s.slot s.params.emcyS).txst = .idle → (s.slot s.params.emcyS).inh = false →
        ∃ d, isEmcyFrame d 0 0 0 ∧
          exec .eclear s =
            .next { s.emcyMarked d with
              emcyErrReg := 0, emcyMfr := 0, emcyCode := 0, alarms := false, status := .ok }) ∧
      (s.emcyCobId.getLsbD 31 = true →
        exec .eclear s =
          .next { s with emcyErrReg := 0, emcyMfr := 0, emcyCode := 0, alarms := false, status := .okNoTx }))

/-- R151, R156: EFORCE does nothing while the error register is 0; else it ends OK_NOTX while the COB-ID is INVALID,
BUSY while the gate is closed, and with the gate open hands the frame of the EMCY registers, which keep their
values, to the transport. -/
def Obligations.ForceRule : Prop :=
  ∀ s : State,
    (s.emcyErrReg = 0 → exec .eforce s = .next { s with status := .ok }) ∧
    (s.emcyErrReg ≠ 0 →
      (s.emcyCobId.getLsbD 31 = true → exec .eforce s = .next { s with status := .okNoTx }) ∧
      (s.emcyCobId.getLsbD 31 = false →
        (s.slot s.params.emcyS).txst ≠ .idle ∨ (s.slot s.params.emcyS).inh = true →
        exec .eforce s = .next { s with status := .busy }) ∧
      (s.emcyCobId.getLsbD 31 = false →
        (s.slot s.params.emcyS).txst = .idle → (s.slot s.params.emcyS).inh = false →
        ∃ d, isEmcyFrame d s.emcyCode s.emcyErrReg s.emcyMfr ∧
          exec .eforce s = .next { s.emcyMarked d with status := .ok }))

/-- R157: ECOBID stores the COB-ID word; a 29-bit or colliding one is stored with INVALID set, latches
EMCY_COBID and ends ERR_COBID. -/
def Obligations.EmcyCobIdRule : Prop :=
  ∀ s : State,
    (s.arg0.getLsbD 31 = true ∨
        (s.arg0.getLsbD 29 = false ∧ inRanges s.params.emcyReserved (s.arg0.extractLsb' 0 11) = false) →
      exec .ecobid s = .next { s with emcyCobId := s.arg0, status := .ok }) ∧
    (s.arg0.getLsbD 31 = false →
        s.arg0.getLsbD 29 = true ∨ inRanges s.params.emcyReserved (s.arg0.extractLsb' 0 11) = true →
      ∃ t, exec .ecobid s = .next t ∧ Latched 2 s t ∧
        t = { s with
          emcyCobId := s.arg0 ||| 0x80000000, fault := t.fault, faultNew := t.faultNew,
          status := .errCobId })

/-- R159 (a): after an ECLEAR that ends OK or OK_NOTX the EMCY registers are 0, and the next EALARM with the gate
open and a valid COB-ID composes a frame whose bytes 0 and 1 are its code, little-endian. -/
def Obligations.ClearThenReassert : Prop :=
  ∀ s t : State, AlarmInv s → exec .eclear s = .next t → t.status = .ok ∨ t.status = .okNoTx →
    t.emcyErrReg = 0 ∧ t.emcyMfr = 0 ∧ t.emcyCode = 0 ∧
    ∀ (u : State) (code : BitVec 16), ShapeInv u → u.emcyErrReg = t.emcyErrReg → u.emcyMfr = t.emcyMfr →
      u.emcyCode = t.emcyCode → u.alarms = t.alarms → u.emcyCobId.getLsbD 31 = false →
      (u.slot u.params.emcyS).txst = .idle → (u.slot u.params.emcyS).inh = false →
      ∃ v, exec (.ealarm code) u = .next v ∧ v.status = .ok ∧
        (v.slot u.params.emcyS).txst = .ready ∧
        byteAt (v.slot u.params.emcyS).data 0 = code.extractLsb' 0 8 ∧
        byteAt (v.slot u.params.emcyS).data 1 = code.extractLsb' 8 8

/-- R153, R155, R206: ALARMS = 0 only while the EMCY registers are 0, in every step from a state where it is
so, and after reset. -/
def Obligations.AlarmsCoverTheEmcyRegisters : Prop :=
  (∀ s t : State, AlarmInv s → step s = .next t → AlarmInv t) ∧ ∀ p : Params, AlarmInv (State.resetWith p)

/-! ### SYNC (43_emcy_sync.md) -/

/-- R161, R163: SCOBID stores the COB-ID word and installs; a 29-bit or colliding one is stored with INVALID
set, latches SYNC_COBID, removes the registration and ends ERR_COBID. -/
def Obligations.SyncCobIdRule : Prop :=
  ∀ s : State, ShapeInv s →
    (s.arg0.getLsbD 31 = true ∨
        (s.arg0.getLsbD 29 = false ∧ inRanges s.params.syncReserved (s.arg0.extractLsb' 0 11) = false) →
      ∃ t, exec .scobid s = .next t ∧ t.status = .ok ∧ t.syncCobId = s.arg0 ∧ t.validIn = s.validIn ∧
        t.fault = s.fault ∧ t.faultNew = s.faultNew ∧ InstallOutcome s t) ∧
    (s.arg0.getLsbD 31 = false →
        s.arg0.getLsbD 29 = true ∨ inRanges s.params.syncReserved (s.arg0.extractLsb' 0 11) = true →
      ∃ t, exec .scobid s = .next t ∧ t.status = .errCobId ∧ t.syncCobId = s.arg0 ||| 0x80000000 ∧
        t.validIn = s.validIn ∧ t.syncInstalled = false ∧ Latched 3 s t ∧ InstallOutcome s t)

/-- R162, R163: SVALID gives VALID_IN from ARG0[2:0] and installs. -/
def Obligations.SyncValidityRule : Prop :=
  ∀ s : State, ShapeInv s →
    ∃ t, exec .svalid s = .next t ∧ t.status = .ok ∧
      t.validIn = (!s.arg0.getLsbD 0 && !s.arg0.getLsbD 1 && !s.arg0.getLsbD 2) ∧
      t.syncCobId = s.syncCobId ∧ t.fault = s.fault ∧ t.faultNew = s.faultNew ∧ InstallOutcome s t

/-! ### Control, faults, registers (44_control.md, 60_exceptions.md, 20_memory.md) -/

/-- R171, R172, R173: NOP changes STATUS alone; FACK reports FAULTNEW in RES0 and clears it; FCLR clears FAULT
and FAULTNEW; after either the interrupt output is 0. -/
def Obligations.ControlCommands : Prop :=
  ∀ s : State,
    exec .nop s = .next { s with status := .ok } ∧
    (∃ r : Word, (∀ b < 32, r.getLsbD b = (decide (b < 5) && s.faultNew.getLsbD b)) ∧
      exec .fack s = .next { s with res0 := r, res1 := 0, faultNew := 0, status := .ok }) ∧
    exec .fclr s = .next { s with fault := 0, faultNew := 0, status := .ok } ∧
    (∀ t, exec .fack s = .next t ∨ exec .fclr s = .next t → t.irq = false)

/-- R181, R182: a fault bit that is latched and already reported stays latched and is not reported again by any
step but a FCLR command or a reset.  The schedule is the model's own (notes/assumptions/1.md). -/
def Obligations.FaultsAreReportedOnce : Prop :=
  ∀ (s t : State) (b : Nat), b < 5 → step s = .next t →
    s.fault.getLsbD b = true → s.faultNew.getLsbD b = false →
    (∀ x ∈ s.inputs.head?, x ≠ .resetInput ∧ ∀ c ∈ x.commandWord, decode c ≠ .ok .fclr) →
    t.fault.getLsbD b = true ∧ t.faultNew.getLsbD b = false

/-- R183: the interrupt output is a level: 1 exactly when some fault bit is both in FAULTNEW and in IRQEN, in every
state and so after every step; IRQEN is 0 after reset, and so is the output. -/
def Obligations.InterruptIsALevel : Prop :=
  (∀ s : State, s.irq = true ↔ ∃ b < 5, s.faultNew.getLsbD b = true ∧ s.irqEn.getLsbD b = true) ∧
    ∀ p : Params, (State.resetWith p).irqEn = 0 ∧ (State.resetWith p).irq = false

/-- R62, R63, R174: a 32-bit read of a mapped register answers its value, any other read a bus error, and
neither changes any state of the block.  The schedule and its answers are the model's own
(notes/assumptions/1.md). -/
def Obligations.ReadsArePure : Prop :=
  ∀ (s : State) (a : BitVec 16) (w : AccessWidth) (xs : List Input), s.inputs = .hostRead a w :: xs →
    (∀ r, w = .w32 → regAt s.params a = some r →
      step s = .next { s with inputs := xs, response := .value (s.readReg r) }) ∧
    (w ≠ .w32 ∨ a.toNat % 4 ≠ 0 ∨ regAt s.params a = none →
      step s = .next { s with inputs := xs, response := .busError })

/-- R27 to R35, R39, R40, R177: what every register reads as: each field at its bits, STATUS and TXST by their
numbers, and every other bit 0. -/
def Obligations.ReadValuesCarryTheFields : Prop :=
  ∀ s : State, Inv s →
    CoreValues s ∧ (∀ i < s.params.nRpdo, RxBlockValues s i) ∧ (∀ j < s.params.nTpdo, TxBlockValues s j) ∧
      ∀ k < s.params.nSlot, WindowValues s k

/-- R26, R27, R32, R40: every core register is at the offset R27's table gives it, every block and window register at
its address, each of a window's three reserved words mapped as such, and the addresses of R26's areas above the
parameters, and R27's holes, are unmapped. -/
def Obligations.RegistersAreAtTheirAddresses : Prop :=
  ∀ p : Params, p.wf →
    (∀ x ∈ coreOffsets, regAt p x.1 = some (.core x.2)) ∧
    (∀ r : CoreReg, r ∈ coreOffsets.map (·.2)) ∧
    (∀ r : Reg, r.exists p → regAt p (addrOf r) = some r) ∧
    (∀ k < p.nSlot, ∀ o ∈ [0x14, 0x18, 0x1C],
      regAt p (BitVec.ofNat 16 (0x8000 + 0x20 * k + o)) = some (.window k .reserved)) ∧
    (∀ a : BitVec 16,
      a.toNat % 4 ≠ 0 ∨ a.toNat = 0x038 ∨ a.toNat = 0x03C ∨ a.toNat = 0x058 ∨ a.toNat = 0x05C ∨
        (0x068 ≤ a.toNat ∧ a.toNat < 0x1000) ∨
        (0x1000 + 0x40 * p.nRpdo ≤ a.toNat ∧ a.toNat < 0x2000) ∨
        (0x2000 + 0x40 * p.nTpdo ≤ a.toNat ∧ a.toNat < 0x8000) ∨
        0x8000 + 0x20 * p.nSlot ≤ a.toNat → regAt p a = none)

/-- R62, R175: a 32-bit write to a mapped register other than CMD stores the writable bits, keeps the others,
and changes no other register, no compiled state and no memory; any other write is a bus error that changes
nothing.  The schedule and its answers (written, busError) are the model's own (notes/assumptions/1.md). -/
def Obligations.WritesStoreTheWritableBits : Prop :=
  ∀ (s : State) (a : BitVec 16) (w : AccessWidth) (v : Word) (xs : List Input), ShapeInv s →
    s.inputs = .hostWrite a w v :: xs →
    (∀ r, w = .w32 → regAt s.params a = some r → r ≠ .core .cmd →
      ∃ t, step s = .next t ∧ t.inputs = xs ∧ t.response = .written ∧
        t.readReg r = (v &&& r.writable) ||| (s.readReg r &&& ~~~ r.writable) ∧
        (∀ r' : Reg, r'.exists s.params → r' ≠ r → t.readReg r' = s.readReg r') ∧
        t.params = s.params ∧ t.slots = s.slots ∧ t.crx = s.crx ∧ t.ctx = s.ctx ∧ t.chain = s.chain ∧
        t.chainCur = s.chainCur ∧ t.mem = s.mem) ∧
    (w ≠ .w32 ∨ regAt s.params a = none →
      step s = .next { s with inputs := xs, response := .busError })

/-! ### Transport, application, reset (60_exceptions.md, 70_reset_and_hazards.md) -/

/-- R198: EV_RX on a registered slot stores the length and the bytes, keeps the bytes above the length, sets NEW,
and sets OVR when NEW was set; a slot that is not registered takes nothing.  The schedule and its answers are the
model's own (notes/assumptions/1.md), and so is that an event which is not enabled is dropped and answered so
(notes/assumptions/7.md). -/
def Obligations.ReceiveRule : Prop :=
  ∀ (s : State) (k : Nat) (bytes : List Byte) (xs : List Input), s.inputs = .evRx k bytes :: xs →
    ((s.slot k).reg = true → bytes.length ≤ 8 → k < s.slots.length →
      ∃ d : FrameBuf,
        step s = .next { s with
          inputs := xs, response := .taken,
          slots := s.slots.modify k fun sl =>
            { sl with ovr := sl.ovr || sl.new, len := bytes.length, data := d, new := true } } ∧
        ∀ b < 8, byteAt d b =
          if b < bytes.length then bytes.getD b 0 else byteAt (s.slot k).data b) ∧
    ((s.slot k).reg = false ∨ 8 < bytes.length →
      step s = .next { s with inputs := xs, response := .notEnabled })

/-- R199, R200, R202, R203: the transport's other marks: an RTR request on an RTR-registered slot, the taking of a
Ready slot that is not inhibited, and the INH and TXBLK flags of the slots that send; an event whose condition
does not hold is not taken.  The schedule and its answers are the model's own (notes/assumptions/1.md), and so is that
such an event is dropped and answered notEnabled (notes/assumptions/7.md). -/
def Obligations.TransportMarks : Prop :=
  ∀ (s : State) (k : Nat) (b : Bool) (xs : List Input),
    (s.inputs = .evRtr k :: xs →
      step s = .next (if (s.slot k).rtrReg = true then
        { s with
          inputs := xs, response := .taken, slots := s.slots.modify k fun sl => { sl with rtr := true } }
        else { s with inputs := xs, response := .notEnabled })) ∧
    (s.inputs = .evTake k :: xs →
      step s = .next (if (s.slot k).txst = .ready ∧ (s.slot k).inh = false then
        { s with
          inputs := xs, response := .taken,
          slots := s.slots.modify k fun sl => { sl with txst := .sending } }
        else { s with inputs := xs, response := .notEnabled })) ∧
    (s.inputs = .evInh k b :: xs →
      step s = .next (if s.params.nRpdo ≤ k ∧ k ≤ s.params.emcyS then
        { s with
          inputs := xs, response := .taken, slots := s.slots.modify k fun sl => { sl with inh := b } }
        else { s with inputs := xs, response := .notEnabled })) ∧
    (s.inputs = .evBlk k b :: xs →
      step s = .next (if s.params.nRpdo ≤ k ∧ k ≤ s.params.emcyS then
        { s with
          inputs := xs, response := .taken, slots := s.slots.modify k fun sl => { sl with txBlk := b } }
        else { s with inputs := xs, response := .notEnabled }))

/-- R141, R201: EV_DONE frees a Sending slot and records the outcome; when the slot is the chain's current one, the
next chained frame, if there is one, is handed to the transport in the same step, and no other completion moves
the chain.  The schedule and its answers are the model's own (notes/assumptions/1.md), and so is that a completion of a
slot that is not Sending is dropped and answered notEnabled (notes/assumptions/7.md). -/
def Obligations.CompletionAdvancesTheChain : Prop :=
  ∀ (s : State) (k : Nat) (ok : Bool) (xs : List Input), ShapeInv s → ChainInv s →
    s.inputs = .evDone k ok :: xs →
    ((s.slot k).txst ≠ .sending → step s = .next { s with inputs := xs, response := .notEnabled }) ∧
    ((s.slot k).txst = .sending →
      ∃ t, step s = .next t ∧
        t = { s with
          inputs := xs, response := .taken, slots := t.slots, chain := t.chain, chainCur := t.chainCur } ∧
        t.slots.length = s.slots.length ∧
        t.slot k = { s.slot k with txst := .idle, txOk := ok } ∧
        match s.chainCur with
        | none => t.chain = s.chain ∧ t.chainCur = none ∧ ∀ k', k' ≠ k → t.slot k' = s.slot k'
        | some j =>
          if k = s.params.slotTx j then
            match s.chain with
            | [] => t.chain = [] ∧ t.chainCur = none ∧ ∀ k', k' ≠ k → t.slot k' = s.slot k'
            | n :: rest =>
              t.chain = rest ∧ t.chainCur = some n ∧
              t.slot (s.params.slotTx n) = { s.slot (s.params.slotTx n) with txst := .ready } ∧
              ∀ k', k' ≠ k → k' ≠ s.params.slotTx n → t.slot k' = s.slot k'
          else t.chain = s.chain ∧ t.chainCur = some j ∧ ∀ k', k' ≠ k → t.slot k' = s.slot k')

/-- R187: an application write stores its bytes, little-endian, at addresses modulo 2^32, and touches no other
byte and no block state.  The schedule and its answer are the model's own (notes/assumptions/1.md), and so is that a
value wider than the write is taken and its low bytes stored (notes/assumptions/19.md). -/
def Obligations.ApplicationWrites : Prop :=
  ∀ (s : State) (a : Word) (w : AppWidth) (v : DWord) (xs : List Input), s.mem.wf = true →
    s.inputs = .app a w v :: xs →
    ∃ m : Memory, step s = .next { s with inputs := xs, response := .taken, mem := m } ∧
      (∀ k < w.bytes, m.read (a + BitVec.ofNat 32 k).toNat = byteAt v k) ∧
      ∀ b : Word, (∀ k < w.bytes, b ≠ a + BitVec.ofNat 32 k) → m.read b.toNat = s.mem.read b.toNat

/-- R206, R207: the reset input gives every piece of block state its reset value and leaves process memory.  That the
same parameters are sampled and the schedule is kept is the model's choice (notes/assumptions/8.md, 1.md), and so is
that a reset is one whole step that cuts no other step short (notes/assumptions/20.md). -/
def Obligations.ResetRule : Prop :=
  ∀ (s : State) (xs : List Input), s.inputs = .resetInput :: xs →
    ∃ t, step s = .next t ∧ t.params = s.params ∧ t.mem = s.mem ∧ t.inputs = xs ∧
      (∀ r ∈ [CoreReg.status, .arg0, .arg1, .res0, .res1, .fault, .faultNew, .irqEn, .cfgErr, .pdoStat,
          .emcyErrReg, .emcyMfr, .emcyCode, .emcyInh, .emcyStat, .syncCtrl], t.readReg (.core r) = 0) ∧
      t.readReg (.core .id) = 0x50444F01 ∧
      (t.readReg (.core .emcyCobId)).toNat = 0x080 + s.params.nodeId.toNat ∧
      t.readReg (.core .syncCobId) = 0x080 ∧
      (∀ i < s.params.nRpdo, t.readReg (.rxDef i .comm) = 0x80000000 ∧ t.rxEntry i = none ∧
        ∀ r : PdoReg, r ≠ .comm → t.readReg (.rxDef i r) = 0) ∧
      (∀ j < s.params.nTpdo, t.readReg (.txDef j .comm) = 0x80000000 ∧ t.txEntry j = none ∧
        ∀ r : PdoReg, r ≠ .comm → t.readReg (.txDef j r) = 0) ∧
      (∀ k < s.params.nSlot, ∀ r : WinReg, t.readReg (.window k r) = 0) ∧
      t.active = false ∧ t.chain = [] ∧ t.chainCur = none ∧ t.irq = false

/-! ### Invariants (10_state.md R52) -/

/-- R206, R207: the invariants hold after reset, for all parameters R5 allows. -/
def Obligations.ResetMeetsTheInvariants : Prop := ∀ p : Params, p.wf → Inv (State.resetWith p)

/-- Every step keeps the sizes R23 gives the state, LEN in 0..8 (R37) and the canonical form of process memory
(the model's own). -/
def Obligations.StepKeepsTheShape : Prop := ∀ s t : State, Inv s → step s = .next t → ShapeInv t

/-- Every step keeps compiled entries as R42 to R44 say, within ELEM_CAP (R108). -/
def Obligations.StepKeepsTheCompiledSet : Prop := ∀ s t : State, Inv s → step s = .next t → CompiledInv t

/-- R52 (a) to (e), with R147 (d): every step keeps the discipline of the set, the chain and the slots' ownership. -/
def Obligations.StepKeepsTheChain : Prop := ∀ s t : State, Inv s → step s = .next t → ChainInv t

/-- R52 (f), (g), with R164 (b): every step keeps the registrations, the SYNC slot's validity and the fault
registers consistent. -/
def Obligations.StepKeepsTheRegistrations : Prop := ∀ s t : State, Inv s → step s = .next t → RegInv t

/-- R159 (b): every step keeps LEN 8 and a last byte 0 in the EMCY slot while its frame is not sent. -/
def Obligations.StepKeepsTheEmcyFrame : Prop := ∀ s t : State, Inv s → step s = .next t → EmcyInv t

/-! ### Whole-machine rules -/

/-- R39, R147 (f): no step but a reset changes the ID, LEN, DATA or INHT of a slot the transport owns.
The schedule is the model's own (notes/assumptions/1.md). -/
def Obligations.TransportOwnedSlotsAreFrozen : Prop :=
  ∀ (s t : State) (k : Nat), Inv s → step s = .next t → s.inputs.head? ≠ some .resetInput →
    (s.slot k).txst = .ready ∨ (s.slot k).txst = .sending →
    (t.slot k).id = (s.slot k).id ∧ (t.slot k).len = (s.slot k).len ∧ (t.slot k).data = (s.slot k).data ∧
      (t.slot k).inht = (s.slot k).inht

/-- R39: no step but a reset moves a slot's TXST other than along the table's transitions; only EV_TAKE leads to
Sending, and only EV_DONE from it.  The schedule is the model's own (notes/assumptions/1.md). -/
def Obligations.OwnershipFollowsTheTable : Prop :=
  ∀ (s t : State) (k : Nat), Inv s → step s = .next t → s.inputs.head? ≠ some .resetInput →
    (s.slot k).txst.stepsTo (t.slot k).txst = true ∧
    ((t.slot k).txst = .sending → (s.slot k).txst = .sending ∨ s.inputs.head? = some (.evTake k)) ∧
    ((s.slot k).txst = .sending →
      (t.slot k).txst = .sending ∨ ∃ ok, s.inputs.head? = some (.evDone k ok))

/-- R177, R212, R213: STATUS, RES0 and RES1 change only with a command or a reset; no command, RT step or event
changes ARG0 or ARG1.  The schedule is the model's own (notes/assumptions/1.md). -/
def Obligations.OnlyCommandsReport : Prop :=
  ∀ s t : State, step s = .next t → s.inputs.head? ≠ some .resetInput →
    ((∀ x ∈ s.inputs.head?, x.commandWord = none) →
      t.status = s.status ∧ t.res0 = s.res0 ∧ t.res1 = s.res1) ∧
    ((∀ x ∈ s.inputs.head?, x.isHostWrite = true → x.commandWord ≠ none) →
      t.arg0 = s.arg0 ∧ t.arg1 = s.arg1)

/-- R5, R32, R101, R127, R211: the parameters never change (that a reset samples the same ones is the model's choice,
notes/assumptions/8.md); the definition registers change only with a host
register write other than a command, or a reset; and the compiled elements, lengths, classes and types only
with PCREATE, PDESTROY or a reset.  The schedule is the model's own (notes/assumptions/1.md). -/
def Obligations.DefinitionsAndCompiledSetAreApart : Prop :=
  ∀ s t : State, step s = .next t → t.params = s.params ∧
    (s.inputs.head? ≠ some .resetInput →
      ((∀ x ∈ s.inputs.head?, x.isHostWrite = true → x.commandWord ≠ none) →
        t.defRx = s.defRx ∧ t.defTx = s.defTx) ∧
      ((∀ x ∈ s.inputs.head?, ∀ c ∈ x.commandWord, decode c ≠ .ok .pcreate ∧ decode c ≠ .ok .pdestroy) →
        t.crx = s.crx ∧ t.active = s.active ∧
        ∀ j, (t.txEntry j).map (fun c => (c.totLen, c.sync, c.cls, c.ncyc, c.chg, c.elems)) =
          (s.txEntry j).map fun c => (c.totLen, c.sync, c.cls, c.ncyc, c.chg, c.elems)))

/-- R70, R185: the block stops exactly at a process-memory access that is made and that the environment refuses: an
access of PTASK, or of a requested and enabled RT step, with an active set, to an element of an RPDO it decodes or of
a TPDO it samples; every other step answers a next state.  The schedule, and that such an access ends the run with a
fault, are the model's own (notes/assumptions/1.md, 6.md). -/
def Obligations.OnlyARefusedAccessStops : Prop :=
  (∀ s : State,
    (s.active = true ∧ ¬ s.passAdmitted false → exec .ptask s = .fault .memoryRefused) ∧
    (s.active = true ∧ ¬ s.passAdmitted true → perform .rtStep s = .fault .memoryRefused)) ∧
  ∀ s : State,
    (step s = .fault .memoryRefused ∧ s.active = true ∧
      (s.inputs.head? = some .rtStep ∧ (s.slot s.params.syncS).new = true ∧ ¬ s.passAdmitted true ∨
        ∃ x ∈ s.inputs.head?, ∃ c ∈ x.commandWord, decode c = .ok .ptask ∧ ¬ s.passAdmitted false)) ∨
    ((∃ t, step s = .next t) ∧
      (s.active = true →
        (s.inputs.head? = some .rtStep → (s.slot s.params.syncS).new = true → s.passAdmitted true) ∧
        ∀ x ∈ s.inputs.head?, ∀ c ∈ x.commandWord, decode c = .ok .ptask → s.passAdmitted false))

/-- R66, R147 (a): process memory changes only with an application write, an RT step or PTASK, and the last two
store only to the elements of RPDOs they decode, whose frames have the compiled length.  The schedule is the
model's own (notes/assumptions/1.md). -/
def Obligations.MemoryWriters : Prop :=
  ∀ s t : State, step s = .next t →
    ((∀ x ∈ s.inputs.head?, (∀ a w v, x ≠ .app a w v) ∧ x ≠ .rtStep ∧
        ∀ c ∈ x.commandWord, decode c ≠ .ok .ptask) → t.mem = s.mem) ∧
    (s.inputs.head? = some .rtStep → ∀ a : Word, a ∉ s.storeAddrs true →
      t.mem.read a.toNat = s.mem.read a.toNat) ∧
    (∀ x ∈ s.inputs.head?, ∀ c ∈ x.commandWord, decode c = .ok .ptask → ∀ a : Word,
      a ∉ s.storeAddrs false → t.mem.read a.toNat = s.mem.read a.toNat)
end

