-- ==== Sys2Proof/Laws/State.lean ====
section
/-! SUPPORT. Laws/State: one lemma per field of State per named update, so that no later proof unfolds a record
update. -/

namespace Sys2Proof.Machine

/-! ### finish -/

@[simp] theorem finish_params (s : State) (c : Status) : (s.finish c).params = s.params := rfl
@[simp] theorem finish_status (s : State) (c : Status) : (s.finish c).status = c := rfl
@[simp] theorem finish_arg0 (s : State) (c : Status) : (s.finish c).arg0 = s.arg0 := rfl
@[simp] theorem finish_arg1 (s : State) (c : Status) : (s.finish c).arg1 = s.arg1 := rfl
@[simp] theorem finish_res0 (s : State) (c : Status) : (s.finish c).res0 = s.res0 := rfl
@[simp] theorem finish_res1 (s : State) (c : Status) : (s.finish c).res1 = s.res1 := rfl
@[simp] theorem finish_fault (s : State) (c : Status) : (s.finish c).fault = s.fault := rfl
@[simp] theorem finish_faultNew (s : State) (c : Status) : (s.finish c).faultNew = s.faultNew := rfl
@[simp] theorem finish_irqEn (s : State) (c : Status) : (s.finish c).irqEn = s.irqEn := rfl
@[simp] theorem finish_cfgErr (s : State) (c : Status) : (s.finish c).cfgErr = s.cfgErr := rfl
@[simp] theorem finish_emcyCobId (s : State) (c : Status) : (s.finish c).emcyCobId = s.emcyCobId := rfl
@[simp] theorem finish_emcyErrReg (s : State) (c : Status) : (s.finish c).emcyErrReg = s.emcyErrReg := rfl
@[simp] theorem finish_emcyMfr (s : State) (c : Status) : (s.finish c).emcyMfr = s.emcyMfr := rfl
@[simp] theorem finish_emcyCode (s : State) (c : Status) : (s.finish c).emcyCode = s.emcyCode := rfl
@[simp] theorem finish_emcyInh (s : State) (c : Status) : (s.finish c).emcyInh = s.emcyInh := rfl
@[simp] theorem finish_alarms (s : State) (c : Status) : (s.finish c).alarms = s.alarms := rfl
@[simp] theorem finish_syncCobId (s : State) (c : Status) : (s.finish c).syncCobId = s.syncCobId := rfl
@[simp] theorem finish_syncInstalled (s : State) (c : Status) : (s.finish c).syncInstalled = s.syncInstalled := rfl
@[simp] theorem finish_resyncEn (s : State) (c : Status) : (s.finish c).resyncEn = s.resyncEn := rfl
@[simp] theorem finish_validIn (s : State) (c : Status) : (s.finish c).validIn = s.validIn := rfl
@[simp] theorem finish_defRx (s : State) (c : Status) : (s.finish c).defRx = s.defRx := rfl
@[simp] theorem finish_defTx (s : State) (c : Status) : (s.finish c).defTx = s.defTx := rfl
@[simp] theorem finish_slots (s : State) (c : Status) : (s.finish c).slots = s.slots := rfl
@[simp] theorem finish_crx (s : State) (c : Status) : (s.finish c).crx = s.crx := rfl
@[simp] theorem finish_ctx (s : State) (c : Status) : (s.finish c).ctx = s.ctx := rfl
@[simp] theorem finish_active (s : State) (c : Status) : (s.finish c).active = s.active := rfl
@[simp] theorem finish_chain (s : State) (c : Status) : (s.finish c).chain = s.chain := rfl
@[simp] theorem finish_chainCur (s : State) (c : Status) : (s.finish c).chainCur = s.chainCur := rfl
@[simp] theorem finish_rxCnt (s : State) (c : Status) : (s.finish c).rxCnt = s.rxCnt := rfl
@[simp] theorem finish_txCnt (s : State) (c : Status) : (s.finish c).txCnt = s.txCnt := rfl
@[simp] theorem finish_mem (s : State) (c : Status) : (s.finish c).mem = s.mem := rfl
@[simp] theorem finish_inputs (s : State) (c : Status) : (s.finish c).inputs = s.inputs := rfl
@[simp] theorem finish_response (s : State) (c : Status) : (s.finish c).response = s.response := rfl

/-! ### answer -/

@[simp] theorem answer_params (s : State) (r : Response) : (s.answer r).params = s.params := rfl
@[simp] theorem answer_status (s : State) (r : Response) : (s.answer r).status = s.status := rfl
@[simp] theorem answer_arg0 (s : State) (r : Response) : (s.answer r).arg0 = s.arg0 := rfl
@[simp] theorem answer_arg1 (s : State) (r : Response) : (s.answer r).arg1 = s.arg1 := rfl
@[simp] theorem answer_res0 (s : State) (r : Response) : (s.answer r).res0 = s.res0 := rfl
@[simp] theorem answer_res1 (s : State) (r : Response) : (s.answer r).res1 = s.res1 := rfl
@[simp] theorem answer_fault (s : State) (r : Response) : (s.answer r).fault = s.fault := rfl
@[simp] theorem answer_faultNew (s : State) (r : Response) : (s.answer r).faultNew = s.faultNew := rfl
@[simp] theorem answer_irqEn (s : State) (r : Response) : (s.answer r).irqEn = s.irqEn := rfl
@[simp] theorem answer_cfgErr (s : State) (r : Response) : (s.answer r).cfgErr = s.cfgErr := rfl
@[simp] theorem answer_emcyCobId (s : State) (r : Response) : (s.answer r).emcyCobId = s.emcyCobId := rfl
@[simp] theorem answer_emcyErrReg (s : State) (r : Response) : (s.answer r).emcyErrReg = s.emcyErrReg := rfl
@[simp] theorem answer_emcyMfr (s : State) (r : Response) : (s.answer r).emcyMfr = s.emcyMfr := rfl
@[simp] theorem answer_emcyCode (s : State) (r : Response) : (s.answer r).emcyCode = s.emcyCode := rfl
@[simp] theorem answer_emcyInh (s : State) (r : Response) : (s.answer r).emcyInh = s.emcyInh := rfl
@[simp] theorem answer_alarms (s : State) (r : Response) : (s.answer r).alarms = s.alarms := rfl
@[simp] theorem answer_syncCobId (s : State) (r : Response) : (s.answer r).syncCobId = s.syncCobId := rfl
@[simp] theorem answer_syncInstalled (s : State) (r : Response) : (s.answer r).syncInstalled = s.syncInstalled := rfl
@[simp] theorem answer_resyncEn (s : State) (r : Response) : (s.answer r).resyncEn = s.resyncEn := rfl
@[simp] theorem answer_validIn (s : State) (r : Response) : (s.answer r).validIn = s.validIn := rfl
@[simp] theorem answer_defRx (s : State) (r : Response) : (s.answer r).defRx = s.defRx := rfl
@[simp] theorem answer_defTx (s : State) (r : Response) : (s.answer r).defTx = s.defTx := rfl
@[simp] theorem answer_slots (s : State) (r : Response) : (s.answer r).slots = s.slots := rfl
@[simp] theorem answer_crx (s : State) (r : Response) : (s.answer r).crx = s.crx := rfl
@[simp] theorem answer_ctx (s : State) (r : Response) : (s.answer r).ctx = s.ctx := rfl
@[simp] theorem answer_active (s : State) (r : Response) : (s.answer r).active = s.active := rfl
@[simp] theorem answer_chain (s : State) (r : Response) : (s.answer r).chain = s.chain := rfl
@[simp] theorem answer_chainCur (s : State) (r : Response) : (s.answer r).chainCur = s.chainCur := rfl
@[simp] theorem answer_rxCnt (s : State) (r : Response) : (s.answer r).rxCnt = s.rxCnt := rfl
@[simp] theorem answer_txCnt (s : State) (r : Response) : (s.answer r).txCnt = s.txCnt := rfl
@[simp] theorem answer_mem (s : State) (r : Response) : (s.answer r).mem = s.mem := rfl
@[simp] theorem answer_inputs (s : State) (r : Response) : (s.answer r).inputs = s.inputs := rfl
@[simp] theorem answer_response (s : State) (r : Response) : (s.answer r).response = r := rfl

/-! ### modSlot -/

@[simp] theorem modSlot_params (s : State) (k : Nat) (f : Slot → Slot) : (s.modSlot k f).params = s.params := rfl
@[simp] theorem modSlot_status (s : State) (k : Nat) (f : Slot → Slot) : (s.modSlot k f).status = s.status := rfl
@[simp] theorem modSlot_arg0 (s : State) (k : Nat) (f : Slot → Slot) : (s.modSlot k f).arg0 = s.arg0 := rfl
@[simp] theorem modSlot_arg1 (s : State) (k : Nat) (f : Slot → Slot) : (s.modSlot k f).arg1 = s.arg1 := rfl
@[simp] theorem modSlot_res0 (s : State) (k : Nat) (f : Slot → Slot) : (s.modSlot k f).res0 = s.res0 := rfl
@[simp] theorem modSlot_res1 (s : State) (k : Nat) (f : Slot → Slot) : (s.modSlot k f).res1 = s.res1 := rfl
@[simp] theorem modSlot_fault (s : State) (k : Nat) (f : Slot → Slot) : (s.modSlot k f).fault = s.fault := rfl
@[simp] theorem modSlot_faultNew (s : State) (k : Nat) (f : Slot → Slot) : (s.modSlot k f).faultNew = s.faultNew := rfl
@[simp] theorem modSlot_irqEn (s : State) (k : Nat) (f : Slot → Slot) : (s.modSlot k f).irqEn = s.irqEn := rfl
@[simp] theorem modSlot_cfgErr (s : State) (k : Nat) (f : Slot → Slot) : (s.modSlot k f).cfgErr = s.cfgErr := rfl
@[simp] theorem modSlot_emcyCobId (s : State) (k : Nat) (f : Slot → Slot) : (s.modSlot k f).emcyCobId = s.emcyCobId := rfl
@[simp] theorem modSlot_emcyErrReg (s : State) (k : Nat) (f : Slot → Slot) : (s.modSlot k f).emcyErrReg = s.emcyErrReg := rfl
@[simp] theorem modSlot_emcyMfr (s : State) (k : Nat) (f : Slot → Slot) : (s.modSlot k f).emcyMfr = s.emcyMfr := rfl
@[simp] theorem modSlot_emcyCode (s : State) (k : Nat) (f : Slot → Slot) : (s.modSlot k f).emcyCode = s.emcyCode := rfl
@[simp] theorem modSlot_emcyInh (s : State) (k : Nat) (f : Slot → Slot) : (s.modSlot k f).emcyInh = s.emcyInh := rfl
@[simp] theorem modSlot_alarms (s : State) (k : Nat) (f : Slot → Slot) : (s.modSlot k f).alarms = s.alarms := rfl
@[simp] theorem modSlot_syncCobId (s : State) (k : Nat) (f : Slot → Slot) : (s.modSlot k f).syncCobId = s.syncCobId := rfl
@[simp] theorem modSlot_syncInstalled (s : State) (k : Nat) (f : Slot → Slot) : (s.modSlot k f).syncInstalled = s.syncInstalled := rfl
@[simp] theorem modSlot_resyncEn (s : State) (k : Nat) (f : Slot → Slot) : (s.modSlot k f).resyncEn = s.resyncEn := rfl
@[simp] theorem modSlot_validIn (s : State) (k : Nat) (f : Slot → Slot) : (s.modSlot k f).validIn = s.validIn := rfl
@[simp] theorem modSlot_defRx (s : State) (k : Nat) (f : Slot → Slot) : (s.modSlot k f).defRx = s.defRx := rfl
@[simp] theorem modSlot_defTx (s : State) (k : Nat) (f : Slot → Slot) : (s.modSlot k f).defTx = s.defTx := rfl
@[simp] theorem modSlot_slots (s : State) (k : Nat) (f : Slot → Slot) : (s.modSlot k f).slots = s.slots.modify k f := rfl
@[simp] theorem modSlot_crx (s : State) (k : Nat) (f : Slot → Slot) : (s.modSlot k f).crx = s.crx := rfl
@[simp] theorem modSlot_ctx (s : State) (k : Nat) (f : Slot → Slot) : (s.modSlot k f).ctx = s.ctx := rfl
@[simp] theorem modSlot_active (s : State) (k : Nat) (f : Slot → Slot) : (s.modSlot k f).active = s.active := rfl
@[simp] theorem modSlot_chain (s : State) (k : Nat) (f : Slot → Slot) : (s.modSlot k f).chain = s.chain := rfl
@[simp] theorem modSlot_chainCur (s : State) (k : Nat) (f : Slot → Slot) : (s.modSlot k f).chainCur = s.chainCur := rfl
@[simp] theorem modSlot_rxCnt (s : State) (k : Nat) (f : Slot → Slot) : (s.modSlot k f).rxCnt = s.rxCnt := rfl
@[simp] theorem modSlot_txCnt (s : State) (k : Nat) (f : Slot → Slot) : (s.modSlot k f).txCnt = s.txCnt := rfl
@[simp] theorem modSlot_mem (s : State) (k : Nat) (f : Slot → Slot) : (s.modSlot k f).mem = s.mem := rfl
@[simp] theorem modSlot_inputs (s : State) (k : Nat) (f : Slot → Slot) : (s.modSlot k f).inputs = s.inputs := rfl
@[simp] theorem modSlot_response (s : State) (k : Nat) (f : Slot → Slot) : (s.modSlot k f).response = s.response := rfl

/-! ### modTx -/

@[simp] theorem modTx_params (s : State) (j : Nat) (f : TxEntry → TxEntry) : (s.modTx j f).params = s.params := rfl
@[simp] theorem modTx_status (s : State) (j : Nat) (f : TxEntry → TxEntry) : (s.modTx j f).status = s.status := rfl
@[simp] theorem modTx_arg0 (s : State) (j : Nat) (f : TxEntry → TxEntry) : (s.modTx j f).arg0 = s.arg0 := rfl
@[simp] theorem modTx_arg1 (s : State) (j : Nat) (f : TxEntry → TxEntry) : (s.modTx j f).arg1 = s.arg1 := rfl
@[simp] theorem modTx_res0 (s : State) (j : Nat) (f : TxEntry → TxEntry) : (s.modTx j f).res0 = s.res0 := rfl
@[simp] theorem modTx_res1 (s : State) (j : Nat) (f : TxEntry → TxEntry) : (s.modTx j f).res1 = s.res1 := rfl
@[simp] theorem modTx_fault (s : State) (j : Nat) (f : TxEntry → TxEntry) : (s.modTx j f).fault = s.fault := rfl
@[simp] theorem modTx_faultNew (s : State) (j : Nat) (f : TxEntry → TxEntry) : (s.modTx j f).faultNew = s.faultNew := rfl
@[simp] theorem modTx_irqEn (s : State) (j : Nat) (f : TxEntry → TxEntry) : (s.modTx j f).irqEn = s.irqEn := rfl
@[simp] theorem modTx_cfgErr (s : State) (j : Nat) (f : TxEntry → TxEntry) : (s.modTx j f).cfgErr = s.cfgErr := rfl
@[simp] theorem modTx_emcyCobId (s : State) (j : Nat) (f : TxEntry → TxEntry) : (s.modTx j f).emcyCobId = s.emcyCobId := rfl
@[simp] theorem modTx_emcyErrReg (s : State) (j : Nat) (f : TxEntry → TxEntry) : (s.modTx j f).emcyErrReg = s.emcyErrReg := rfl
@[simp] theorem modTx_emcyMfr (s : State) (j : Nat) (f : TxEntry → TxEntry) : (s.modTx j f).emcyMfr = s.emcyMfr := rfl
@[simp] theorem modTx_emcyCode (s : State) (j : Nat) (f : TxEntry → TxEntry) : (s.modTx j f).emcyCode = s.emcyCode := rfl
@[simp] theorem modTx_emcyInh (s : State) (j : Nat) (f : TxEntry → TxEntry) : (s.modTx j f).emcyInh = s.emcyInh := rfl
@[simp] theorem modTx_alarms (s : State) (j : Nat) (f : TxEntry → TxEntry) : (s.modTx j f).alarms = s.alarms := rfl
@[simp] theorem modTx_syncCobId (s : State) (j : Nat) (f : TxEntry → TxEntry) : (s.modTx j f).syncCobId = s.syncCobId := rfl
@[simp] theorem modTx_syncInstalled (s : State) (j : Nat) (f : TxEntry → TxEntry) : (s.modTx j f).syncInstalled = s.syncInstalled := rfl
@[simp] theorem modTx_resyncEn (s : State) (j : Nat) (f : TxEntry → TxEntry) : (s.modTx j f).resyncEn = s.resyncEn := rfl
@[simp] theorem modTx_validIn (s : State) (j : Nat) (f : TxEntry → TxEntry) : (s.modTx j f).validIn = s.validIn := rfl
@[simp] theorem modTx_defRx (s : State) (j : Nat) (f : TxEntry → TxEntry) : (s.modTx j f).defRx = s.defRx := rfl
@[simp] theorem modTx_defTx (s : State) (j : Nat) (f : TxEntry → TxEntry) : (s.modTx j f).defTx = s.defTx := rfl
@[simp] theorem modTx_slots (s : State) (j : Nat) (f : TxEntry → TxEntry) : (s.modTx j f).slots = s.slots := rfl
@[simp] theorem modTx_crx (s : State) (j : Nat) (f : TxEntry → TxEntry) : (s.modTx j f).crx = s.crx := rfl
@[simp] theorem modTx_ctx (s : State) (j : Nat) (f : TxEntry → TxEntry) : (s.modTx j f).ctx = s.ctx.modify j (Option.map f) := rfl
@[simp] theorem modTx_active (s : State) (j : Nat) (f : TxEntry → TxEntry) : (s.modTx j f).active = s.active := rfl
@[simp] theorem modTx_chain (s : State) (j : Nat) (f : TxEntry → TxEntry) : (s.modTx j f).chain = s.chain := rfl
@[simp] theorem modTx_chainCur (s : State) (j : Nat) (f : TxEntry → TxEntry) : (s.modTx j f).chainCur = s.chainCur := rfl
@[simp] theorem modTx_rxCnt (s : State) (j : Nat) (f : TxEntry → TxEntry) : (s.modTx j f).rxCnt = s.rxCnt := rfl
@[simp] theorem modTx_txCnt (s : State) (j : Nat) (f : TxEntry → TxEntry) : (s.modTx j f).txCnt = s.txCnt := rfl
@[simp] theorem modTx_mem (s : State) (j : Nat) (f : TxEntry → TxEntry) : (s.modTx j f).mem = s.mem := rfl
@[simp] theorem modTx_inputs (s : State) (j : Nat) (f : TxEntry → TxEntry) : (s.modTx j f).inputs = s.inputs := rfl
@[simp] theorem modTx_response (s : State) (j : Nat) (f : TxEntry → TxEntry) : (s.modTx j f).response = s.response := rfl

/-! ### countRx -/

@[simp] theorem countRx_params (s : State) (i : Nat) : (s.countRx i).params = s.params := rfl
@[simp] theorem countRx_status (s : State) (i : Nat) : (s.countRx i).status = s.status := rfl
@[simp] theorem countRx_arg0 (s : State) (i : Nat) : (s.countRx i).arg0 = s.arg0 := rfl
@[simp] theorem countRx_arg1 (s : State) (i : Nat) : (s.countRx i).arg1 = s.arg1 := rfl
@[simp] theorem countRx_res0 (s : State) (i : Nat) : (s.countRx i).res0 = s.res0 := rfl
@[simp] theorem countRx_res1 (s : State) (i : Nat) : (s.countRx i).res1 = s.res1 := rfl
@[simp] theorem countRx_fault (s : State) (i : Nat) : (s.countRx i).fault = s.fault := rfl
@[simp] theorem countRx_faultNew (s : State) (i : Nat) : (s.countRx i).faultNew = s.faultNew := rfl
@[simp] theorem countRx_irqEn (s : State) (i : Nat) : (s.countRx i).irqEn = s.irqEn := rfl
@[simp] theorem countRx_cfgErr (s : State) (i : Nat) : (s.countRx i).cfgErr = s.cfgErr := rfl
@[simp] theorem countRx_emcyCobId (s : State) (i : Nat) : (s.countRx i).emcyCobId = s.emcyCobId := rfl
@[simp] theorem countRx_emcyErrReg (s : State) (i : Nat) : (s.countRx i).emcyErrReg = s.emcyErrReg := rfl
@[simp] theorem countRx_emcyMfr (s : State) (i : Nat) : (s.countRx i).emcyMfr = s.emcyMfr := rfl
@[simp] theorem countRx_emcyCode (s : State) (i : Nat) : (s.countRx i).emcyCode = s.emcyCode := rfl
@[simp] theorem countRx_emcyInh (s : State) (i : Nat) : (s.countRx i).emcyInh = s.emcyInh := rfl
@[simp] theorem countRx_alarms (s : State) (i : Nat) : (s.countRx i).alarms = s.alarms := rfl
@[simp] theorem countRx_syncCobId (s : State) (i : Nat) : (s.countRx i).syncCobId = s.syncCobId := rfl
@[simp] theorem countRx_syncInstalled (s : State) (i : Nat) : (s.countRx i).syncInstalled = s.syncInstalled := rfl
@[simp] theorem countRx_resyncEn (s : State) (i : Nat) : (s.countRx i).resyncEn = s.resyncEn := rfl
@[simp] theorem countRx_validIn (s : State) (i : Nat) : (s.countRx i).validIn = s.validIn := rfl
@[simp] theorem countRx_defRx (s : State) (i : Nat) : (s.countRx i).defRx = s.defRx := rfl
@[simp] theorem countRx_defTx (s : State) (i : Nat) : (s.countRx i).defTx = s.defTx := rfl
@[simp] theorem countRx_slots (s : State) (i : Nat) : (s.countRx i).slots = s.slots := rfl
@[simp] theorem countRx_crx (s : State) (i : Nat) : (s.countRx i).crx = s.crx := rfl
@[simp] theorem countRx_ctx (s : State) (i : Nat) : (s.countRx i).ctx = s.ctx := rfl
@[simp] theorem countRx_active (s : State) (i : Nat) : (s.countRx i).active = s.active := rfl
@[simp] theorem countRx_chain (s : State) (i : Nat) : (s.countRx i).chain = s.chain := rfl
@[simp] theorem countRx_chainCur (s : State) (i : Nat) : (s.countRx i).chainCur = s.chainCur := rfl
@[simp] theorem countRx_rxCnt (s : State) (i : Nat) : (s.countRx i).rxCnt = s.rxCnt.modify i (· + 1) := rfl
@[simp] theorem countRx_txCnt (s : State) (i : Nat) : (s.countRx i).txCnt = s.txCnt := rfl
@[simp] theorem countRx_mem (s : State) (i : Nat) : (s.countRx i).mem = s.mem := rfl
@[simp] theorem countRx_inputs (s : State) (i : Nat) : (s.countRx i).inputs = s.inputs := rfl
@[simp] theorem countRx_response (s : State) (i : Nat) : (s.countRx i).response = s.response := rfl

/-! ### countTx -/

@[simp] theorem countTx_params (s : State) (j : Nat) : (s.countTx j).params = s.params := rfl
@[simp] theorem countTx_status (s : State) (j : Nat) : (s.countTx j).status = s.status := rfl
@[simp] theorem countTx_arg0 (s : State) (j : Nat) : (s.countTx j).arg0 = s.arg0 := rfl
@[simp] theorem countTx_arg1 (s : State) (j : Nat) : (s.countTx j).arg1 = s.arg1 := rfl
@[simp] theorem countTx_res0 (s : State) (j : Nat) : (s.countTx j).res0 = s.res0 := rfl
@[simp] theorem countTx_res1 (s : State) (j : Nat) : (s.countTx j).res1 = s.res1 := rfl
@[simp] theorem countTx_fault (s : State) (j : Nat) : (s.countTx j).fault = s.fault := rfl
@[simp] theorem countTx_faultNew (s : State) (j : Nat) : (s.countTx j).faultNew = s.faultNew := rfl
@[simp] theorem countTx_irqEn (s : State) (j : Nat) : (s.countTx j).irqEn = s.irqEn := rfl
@[simp] theorem countTx_cfgErr (s : State) (j : Nat) : (s.countTx j).cfgErr = s.cfgErr := rfl
@[simp] theorem countTx_emcyCobId (s : State) (j : Nat) : (s.countTx j).emcyCobId = s.emcyCobId := rfl
@[simp] theorem countTx_emcyErrReg (s : State) (j : Nat) : (s.countTx j).emcyErrReg = s.emcyErrReg := rfl
@[simp] theorem countTx_emcyMfr (s : State) (j : Nat) : (s.countTx j).emcyMfr = s.emcyMfr := rfl
@[simp] theorem countTx_emcyCode (s : State) (j : Nat) : (s.countTx j).emcyCode = s.emcyCode := rfl
@[simp] theorem countTx_emcyInh (s : State) (j : Nat) : (s.countTx j).emcyInh = s.emcyInh := rfl
@[simp] theorem countTx_alarms (s : State) (j : Nat) : (s.countTx j).alarms = s.alarms := rfl
@[simp] theorem countTx_syncCobId (s : State) (j : Nat) : (s.countTx j).syncCobId = s.syncCobId := rfl
@[simp] theorem countTx_syncInstalled (s : State) (j : Nat) : (s.countTx j).syncInstalled = s.syncInstalled := rfl
@[simp] theorem countTx_resyncEn (s : State) (j : Nat) : (s.countTx j).resyncEn = s.resyncEn := rfl
@[simp] theorem countTx_validIn (s : State) (j : Nat) : (s.countTx j).validIn = s.validIn := rfl
@[simp] theorem countTx_defRx (s : State) (j : Nat) : (s.countTx j).defRx = s.defRx := rfl
@[simp] theorem countTx_defTx (s : State) (j : Nat) : (s.countTx j).defTx = s.defTx := rfl
@[simp] theorem countTx_slots (s : State) (j : Nat) : (s.countTx j).slots = s.slots := rfl
@[simp] theorem countTx_crx (s : State) (j : Nat) : (s.countTx j).crx = s.crx := rfl
@[simp] theorem countTx_ctx (s : State) (j : Nat) : (s.countTx j).ctx = s.ctx := rfl
@[simp] theorem countTx_active (s : State) (j : Nat) : (s.countTx j).active = s.active := rfl
@[simp] theorem countTx_chain (s : State) (j : Nat) : (s.countTx j).chain = s.chain := rfl
@[simp] theorem countTx_chainCur (s : State) (j : Nat) : (s.countTx j).chainCur = s.chainCur := rfl
@[simp] theorem countTx_rxCnt (s : State) (j : Nat) : (s.countTx j).rxCnt = s.rxCnt := rfl
@[simp] theorem countTx_txCnt (s : State) (j : Nat) : (s.countTx j).txCnt = s.txCnt.modify j (· + 1) := rfl
@[simp] theorem countTx_mem (s : State) (j : Nat) : (s.countTx j).mem = s.mem := rfl
@[simp] theorem countTx_inputs (s : State) (j : Nat) : (s.countTx j).inputs = s.inputs := rfl
@[simp] theorem countTx_response (s : State) (j : Nat) : (s.countTx j).response = s.response := rfl

/-! ### modRxDef -/

@[simp] theorem modRxDef_params (s : State) (i : Nat) (f : PdoDef → PdoDef) : (s.modRxDef i f).params = s.params := rfl
@[simp] theorem modRxDef_status (s : State) (i : Nat) (f : PdoDef → PdoDef) : (s.modRxDef i f).status = s.status := rfl
@[simp] theorem modRxDef_arg0 (s : State) (i : Nat) (f : PdoDef → PdoDef) : (s.modRxDef i f).arg0 = s.arg0 := rfl
@[simp] theorem modRxDef_arg1 (s : State) (i : Nat) (f : PdoDef → PdoDef) : (s.modRxDef i f).arg1 = s.arg1 := rfl
@[simp] theorem modRxDef_res0 (s : State) (i : Nat) (f : PdoDef → PdoDef) : (s.modRxDef i f).res0 = s.res0 := rfl
@[simp] theorem modRxDef_res1 (s : State) (i : Nat) (f : PdoDef → PdoDef) : (s.modRxDef i f).res1 = s.res1 := rfl
@[simp] theorem modRxDef_fault (s : State) (i : Nat) (f : PdoDef → PdoDef) : (s.modRxDef i f).fault = s.fault := rfl
@[simp] theorem modRxDef_faultNew (s : State) (i : Nat) (f : PdoDef → PdoDef) : (s.modRxDef i f).faultNew = s.faultNew := rfl
@[simp] theorem modRxDef_irqEn (s : State) (i : Nat) (f : PdoDef → PdoDef) : (s.modRxDef i f).irqEn = s.irqEn := rfl
@[simp] theorem modRxDef_cfgErr (s : State) (i : Nat) (f : PdoDef → PdoDef) : (s.modRxDef i f).cfgErr = s.cfgErr := rfl
@[simp] theorem modRxDef_emcyCobId (s : State) (i : Nat) (f : PdoDef → PdoDef) : (s.modRxDef i f).emcyCobId = s.emcyCobId := rfl
@[simp] theorem modRxDef_emcyErrReg (s : State) (i : Nat) (f : PdoDef → PdoDef) : (s.modRxDef i f).emcyErrReg = s.emcyErrReg := rfl
@[simp] theorem modRxDef_emcyMfr (s : State) (i : Nat) (f : PdoDef → PdoDef) : (s.modRxDef i f).emcyMfr = s.emcyMfr := rfl
@[simp] theorem modRxDef_emcyCode (s : State) (i : Nat) (f : PdoDef → PdoDef) : (s.modRxDef i f).emcyCode = s.emcyCode := rfl
@[simp] theorem modRxDef_emcyInh (s : State) (i : Nat) (f : PdoDef → PdoDef) : (s.modRxDef i f).emcyInh = s.emcyInh := rfl
@[simp] theorem modRxDef_alarms (s : State) (i : Nat) (f : PdoDef → PdoDef) : (s.modRxDef i f).alarms = s.alarms := rfl
@[simp] theorem modRxDef_syncCobId (s : State) (i : Nat) (f : PdoDef → PdoDef) : (s.modRxDef i f).syncCobId = s.syncCobId := rfl
@[simp] theorem modRxDef_syncInstalled (s : State) (i : Nat) (f : PdoDef → PdoDef) : (s.modRxDef i f).syncInstalled = s.syncInstalled := rfl
@[simp] theorem modRxDef_resyncEn (s : State) (i : Nat) (f : PdoDef → PdoDef) : (s.modRxDef i f).resyncEn = s.resyncEn := rfl
@[simp] theorem modRxDef_validIn (s : State) (i : Nat) (f : PdoDef → PdoDef) : (s.modRxDef i f).validIn = s.validIn := rfl
@[simp] theorem modRxDef_defRx (s : State) (i : Nat) (f : PdoDef → PdoDef) : (s.modRxDef i f).defRx = s.defRx.modify i f := rfl
@[simp] theorem modRxDef_defTx (s : State) (i : Nat) (f : PdoDef → PdoDef) : (s.modRxDef i f).defTx = s.defTx := rfl
@[simp] theorem modRxDef_slots (s : State) (i : Nat) (f : PdoDef → PdoDef) : (s.modRxDef i f).slots = s.slots := rfl
@[simp] theorem modRxDef_crx (s : State) (i : Nat) (f : PdoDef → PdoDef) : (s.modRxDef i f).crx = s.crx := rfl
@[simp] theorem modRxDef_ctx (s : State) (i : Nat) (f : PdoDef → PdoDef) : (s.modRxDef i f).ctx = s.ctx := rfl
@[simp] theorem modRxDef_active (s : State) (i : Nat) (f : PdoDef → PdoDef) : (s.modRxDef i f).active = s.active := rfl
@[simp] theorem modRxDef_chain (s : State) (i : Nat) (f : PdoDef → PdoDef) : (s.modRxDef i f).chain = s.chain := rfl
@[simp] theorem modRxDef_chainCur (s : State) (i : Nat) (f : PdoDef → PdoDef) : (s.modRxDef i f).chainCur = s.chainCur := rfl
@[simp] theorem modRxDef_rxCnt (s : State) (i : Nat) (f : PdoDef → PdoDef) : (s.modRxDef i f).rxCnt = s.rxCnt := rfl
@[simp] theorem modRxDef_txCnt (s : State) (i : Nat) (f : PdoDef → PdoDef) : (s.modRxDef i f).txCnt = s.txCnt := rfl
@[simp] theorem modRxDef_mem (s : State) (i : Nat) (f : PdoDef → PdoDef) : (s.modRxDef i f).mem = s.mem := rfl
@[simp] theorem modRxDef_inputs (s : State) (i : Nat) (f : PdoDef → PdoDef) : (s.modRxDef i f).inputs = s.inputs := rfl
@[simp] theorem modRxDef_response (s : State) (i : Nat) (f : PdoDef → PdoDef) : (s.modRxDef i f).response = s.response := rfl

/-! ### modTxDef -/

@[simp] theorem modTxDef_params (s : State) (j : Nat) (f : TxDef → TxDef) : (s.modTxDef j f).params = s.params := rfl
@[simp] theorem modTxDef_status (s : State) (j : Nat) (f : TxDef → TxDef) : (s.modTxDef j f).status = s.status := rfl
@[simp] theorem modTxDef_arg0 (s : State) (j : Nat) (f : TxDef → TxDef) : (s.modTxDef j f).arg0 = s.arg0 := rfl
@[simp] theorem modTxDef_arg1 (s : State) (j : Nat) (f : TxDef → TxDef) : (s.modTxDef j f).arg1 = s.arg1 := rfl
@[simp] theorem modTxDef_res0 (s : State) (j : Nat) (f : TxDef → TxDef) : (s.modTxDef j f).res0 = s.res0 := rfl
@[simp] theorem modTxDef_res1 (s : State) (j : Nat) (f : TxDef → TxDef) : (s.modTxDef j f).res1 = s.res1 := rfl
@[simp] theorem modTxDef_fault (s : State) (j : Nat) (f : TxDef → TxDef) : (s.modTxDef j f).fault = s.fault := rfl
@[simp] theorem modTxDef_faultNew (s : State) (j : Nat) (f : TxDef → TxDef) : (s.modTxDef j f).faultNew = s.faultNew := rfl
@[simp] theorem modTxDef_irqEn (s : State) (j : Nat) (f : TxDef → TxDef) : (s.modTxDef j f).irqEn = s.irqEn := rfl
@[simp] theorem modTxDef_cfgErr (s : State) (j : Nat) (f : TxDef → TxDef) : (s.modTxDef j f).cfgErr = s.cfgErr := rfl
@[simp] theorem modTxDef_emcyCobId (s : State) (j : Nat) (f : TxDef → TxDef) : (s.modTxDef j f).emcyCobId = s.emcyCobId := rfl
@[simp] theorem modTxDef_emcyErrReg (s : State) (j : Nat) (f : TxDef → TxDef) : (s.modTxDef j f).emcyErrReg = s.emcyErrReg := rfl
@[simp] theorem modTxDef_emcyMfr (s : State) (j : Nat) (f : TxDef → TxDef) : (s.modTxDef j f).emcyMfr = s.emcyMfr := rfl
@[simp] theorem modTxDef_emcyCode (s : State) (j : Nat) (f : TxDef → TxDef) : (s.modTxDef j f).emcyCode = s.emcyCode := rfl
@[simp] theorem modTxDef_emcyInh (s : State) (j : Nat) (f : TxDef → TxDef) : (s.modTxDef j f).emcyInh = s.emcyInh := rfl
@[simp] theorem modTxDef_alarms (s : State) (j : Nat) (f : TxDef → TxDef) : (s.modTxDef j f).alarms = s.alarms := rfl
@[simp] theorem modTxDef_syncCobId (s : State) (j : Nat) (f : TxDef → TxDef) : (s.modTxDef j f).syncCobId = s.syncCobId := rfl
@[simp] theorem modTxDef_syncInstalled (s : State) (j : Nat) (f : TxDef → TxDef) : (s.modTxDef j f).syncInstalled = s.syncInstalled := rfl
@[simp] theorem modTxDef_resyncEn (s : State) (j : Nat) (f : TxDef → TxDef) : (s.modTxDef j f).resyncEn = s.resyncEn := rfl
@[simp] theorem modTxDef_validIn (s : State) (j : Nat) (f : TxDef → TxDef) : (s.modTxDef j f).validIn = s.validIn := rfl
@[simp] theorem modTxDef_defRx (s : State) (j : Nat) (f : TxDef → TxDef) : (s.modTxDef j f).defRx = s.defRx := rfl
@[simp] theorem modTxDef_defTx (s : State) (j : Nat) (f : TxDef → TxDef) : (s.modTxDef j f).defTx = s.defTx.modify j f := rfl
@[simp] theorem modTxDef_slots (s : State) (j : Nat) (f : TxDef → TxDef) : (s.modTxDef j f).slots = s.slots := rfl
@[simp] theorem modTxDef_crx (s : State) (j : Nat) (f : TxDef → TxDef) : (s.modTxDef j f).crx = s.crx := rfl
@[simp] theorem modTxDef_ctx (s : State) (j : Nat) (f : TxDef → TxDef) : (s.modTxDef j f).ctx = s.ctx := rfl
@[simp] theorem modTxDef_active (s : State) (j : Nat) (f : TxDef → TxDef) : (s.modTxDef j f).active = s.active := rfl
@[simp] theorem modTxDef_chain (s : State) (j : Nat) (f : TxDef → TxDef) : (s.modTxDef j f).chain = s.chain := rfl
@[simp] theorem modTxDef_chainCur (s : State) (j : Nat) (f : TxDef → TxDef) : (s.modTxDef j f).chainCur = s.chainCur := rfl
@[simp] theorem modTxDef_rxCnt (s : State) (j : Nat) (f : TxDef → TxDef) : (s.modTxDef j f).rxCnt = s.rxCnt := rfl
@[simp] theorem modTxDef_txCnt (s : State) (j : Nat) (f : TxDef → TxDef) : (s.modTxDef j f).txCnt = s.txCnt := rfl
@[simp] theorem modTxDef_mem (s : State) (j : Nat) (f : TxDef → TxDef) : (s.modTxDef j f).mem = s.mem := rfl
@[simp] theorem modTxDef_inputs (s : State) (j : Nat) (f : TxDef → TxDef) : (s.modTxDef j f).inputs = s.inputs := rfl
@[simp] theorem modTxDef_response (s : State) (j : Nat) (f : TxDef → TxDef) : (s.modTxDef j f).response = s.response := rfl

/-! ### latch -/

@[simp] theorem latch_params (s : State) (b : FaultBit) : (s.latch b).params = s.params := by
  unfold State.latch; split <;> rfl
@[simp] theorem latch_status (s : State) (b : FaultBit) : (s.latch b).status = s.status := by
  unfold State.latch; split <;> rfl
@[simp] theorem latch_arg0 (s : State) (b : FaultBit) : (s.latch b).arg0 = s.arg0 := by
  unfold State.latch; split <;> rfl
@[simp] theorem latch_arg1 (s : State) (b : FaultBit) : (s.latch b).arg1 = s.arg1 := by
  unfold State.latch; split <;> rfl
@[simp] theorem latch_res0 (s : State) (b : FaultBit) : (s.latch b).res0 = s.res0 := by
  unfold State.latch; split <;> rfl
@[simp] theorem latch_res1 (s : State) (b : FaultBit) : (s.latch b).res1 = s.res1 := by
  unfold State.latch; split <;> rfl
@[simp] theorem latch_irqEn (s : State) (b : FaultBit) : (s.latch b).irqEn = s.irqEn := by
  unfold State.latch; split <;> rfl
@[simp] theorem latch_cfgErr (s : State) (b : FaultBit) : (s.latch b).cfgErr = s.cfgErr := by
  unfold State.latch; split <;> rfl
@[simp] theorem latch_emcyCobId (s : State) (b : FaultBit) : (s.latch b).emcyCobId = s.emcyCobId := by
  unfold State.latch; split <;> rfl
@[simp] theorem latch_emcyErrReg (s : State) (b : FaultBit) : (s.latch b).emcyErrReg = s.emcyErrReg := by
  unfold State.latch; split <;> rfl
@[simp] theorem latch_emcyMfr (s : State) (b : FaultBit) : (s.latch b).emcyMfr = s.emcyMfr := by
  unfold State.latch; split <;> rfl
@[simp] theorem latch_emcyCode (s : State) (b : FaultBit) : (s.latch b).emcyCode = s.emcyCode := by
  unfold State.latch; split <;> rfl
@[simp] theorem latch_emcyInh (s : State) (b : FaultBit) : (s.latch b).emcyInh = s.emcyInh := by
  unfold State.latch; split <;> rfl
@[simp] theorem latch_alarms (s : State) (b : FaultBit) : (s.latch b).alarms = s.alarms := by
  unfold State.latch; split <;> rfl
@[simp] theorem latch_syncCobId (s : State) (b : FaultBit) : (s.latch b).syncCobId = s.syncCobId := by
  unfold State.latch; split <;> rfl
@[simp] theorem latch_syncInstalled (s : State) (b : FaultBit) : (s.latch b).syncInstalled = s.syncInstalled := by
  unfold State.latch; split <;> rfl
@[simp] theorem latch_resyncEn (s : State) (b : FaultBit) : (s.latch b).resyncEn = s.resyncEn := by
  unfold State.latch; split <;> rfl
@[simp] theorem latch_validIn (s : State) (b : FaultBit) : (s.latch b).validIn = s.validIn := by
  unfold State.latch; split <;> rfl
@[simp] theorem latch_defRx (s : State) (b : FaultBit) : (s.latch b).defRx = s.defRx := by
  unfold State.latch; split <;> rfl
@[simp] theorem latch_defTx (s : State) (b : FaultBit) : (s.latch b).defTx = s.defTx := by
  unfold State.latch; split <;> rfl
@[simp] theorem latch_slots (s : State) (b : FaultBit) : (s.latch b).slots = s.slots := by
  unfold State.latch; split <;> rfl
@[simp] theorem latch_crx (s : State) (b : FaultBit) : (s.latch b).crx = s.crx := by
  unfold State.latch; split <;> rfl
@[simp] theorem latch_ctx (s : State) (b : FaultBit) : (s.latch b).ctx = s.ctx := by
  unfold State.latch; split <;> rfl
@[simp] theorem latch_active (s : State) (b : FaultBit) : (s.latch b).active = s.active := by
  unfold State.latch; split <;> rfl
@[simp] theorem latch_chain (s : State) (b : FaultBit) : (s.latch b).chain = s.chain := by
  unfold State.latch; split <;> rfl
@[simp] theorem latch_chainCur (s : State) (b : FaultBit) : (s.latch b).chainCur = s.chainCur := by
  unfold State.latch; split <;> rfl
@[simp] theorem latch_rxCnt (s : State) (b : FaultBit) : (s.latch b).rxCnt = s.rxCnt := by
  unfold State.latch; split <;> rfl
@[simp] theorem latch_txCnt (s : State) (b : FaultBit) : (s.latch b).txCnt = s.txCnt := by
  unfold State.latch; split <;> rfl
@[simp] theorem latch_mem (s : State) (b : FaultBit) : (s.latch b).mem = s.mem := by
  unfold State.latch; split <;> rfl
@[simp] theorem latch_inputs (s : State) (b : FaultBit) : (s.latch b).inputs = s.inputs := by
  unfold State.latch; split <;> rfl
@[simp] theorem latch_response (s : State) (b : FaultBit) : (s.latch b).response = s.response := by
  unfold State.latch; split <;> rfl

end Sys2Proof.Machine
end

