-- ==== Sys2Proof/Laws/Codec.lean ====
section
/-! SUPPORT. Laws/Codec: the frame codec bit by bit (40_frame_codec.md R91 to R93): every later fact about a field is
a fact about its bits. -/

namespace Sys2Proof.Machine

@[simp] theorem fieldMask_getLsbD (len k : Nat) : (fieldMask len).getLsbD k = (decide (k < 64) && decide (k < len)) := by
  simp only [fieldMask, BitVec.getLsbD_not, BitVec.getLsbD_shiftLeft, BitVec.getLsbD_allOnes]
  by_cases h1 : k < 64 <;> by_cases h2 : k < len <;> simp [h1, h2]
  omega

/-- R91: bit (b mod 8) of byte D[b div 8] is frame bit b. -/
theorem byteAt_bit (d : DWord) (b : Nat) : (byteAt d (b / 8)).getLsbD (b % 8) = d.getLsbD b := by
  simp only [byteAt, BitVec.getLsbD_extractLsb']
  have : b % 8 < 8 := Nat.mod_lt _ (by omega)
  have h : 8 * (b / 8) + b % 8 = b := by omega
  simp [this, h]

theorem byteAt_getLsbD (d : DWord) (k i : Nat) : (byteAt d k).getLsbD i = (decide (i < 8) && d.getLsbD (8 * k + i)) := by
  simp [byteAt, BitVec.getLsbD_extractLsb']

/-- R92: bit k of the field is frame bit off + k. -/
theorem getBits_bit (d : FrameBuf) (off len k : Nat) :
    (getBits d off len).getLsbD k = (decide (k < len) && d.getLsbD (off + k)) := by
  by_cases hk : k < 64
  · rw [getBits, BitVec.getLsbD_and, BitVec.getLsbD_ushiftRight, fieldMask_getLsbD]
    simp [hk, Bool.and_comm]
  · have h1 : (getBits d off len).getLsbD k = false := BitVec.getLsbD_of_ge _ _ (by omega)
    have h2 : d.getLsbD (off + k) = false := BitVec.getLsbD_of_ge _ _ (by omega)
    simp [h1, h2]

/-- R93: the bits off..off+len-1 take v's bits, every other bit stays. -/
theorem putBits_bit (d : FrameBuf) (off len : Nat) (v : DWord) (b : Nat) :
    (putBits d off len v).getLsbD b =
      if off ≤ b ∧ b < off + len ∧ b < 64 then v.getLsbD (b - off) else d.getLsbD b := by
  by_cases hb : b < 64
  · simp only [putBits, BitVec.getLsbD_or, BitVec.getLsbD_and, BitVec.getLsbD_not, BitVec.getLsbD_shiftLeft,
      fieldMask_getLsbD, hb, decide_true, Bool.true_and]
    by_cases h1 : b < off
    · have h2 : ¬off ≤ b := by omega
      simp [h1, h2]
    · by_cases h2 : b < off + len
      · have h3 : b - off < len := by omega
        have h4 : b - off < 64 := by omega
        have h5 : off ≤ b := by omega
        simp [h1, h2, h3, h4, h5]
      · have h3 : ¬b - off < len := by omega
        simp [h1, h2, h3]
  · rw [BitVec.getLsbD_of_ge _ _ (by omega), BitVec.getLsbD_of_ge d _ (by omega)]
    simp [hb]

/-- Two buffers with the same bits are the same. -/
theorem frame_ext {a b : DWord} (h : ∀ k < 64, a.getLsbD k = b.getLsbD k) : a = b :=
  BitVec.eq_of_getLsbD_eq h

/-- Two bytes with the same bits are the same. -/
theorem byte_ext {a b : Byte} (h : ∀ k < 8, a.getLsbD k = b.getLsbD k) : a = b :=
  BitVec.eq_of_getLsbD_eq h

/-- A byte of PutBits over whole bytes (R95). -/
theorem byteAt_putBits (d : FrameBuf) (a n : Nat) (v : DWord) (k : Nat) (hk : k < 8) :
    byteAt (putBits d (8 * a) (8 * n) v) k = if a ≤ k ∧ k < a + n then byteAt v (k - a) else byteAt d k := by
  apply byte_ext
  intro i hi
  rw [byteAt_getLsbD, putBits_bit]
  by_cases h : a ≤ k ∧ k < a + n
  · rw [if_pos (by omega), if_pos h, byteAt_getLsbD]
    congr 2
    omega
  · rw [if_neg (by omega), if_neg h, byteAt_getLsbD]

/-- Byte k of a little-endian sequence (R9). -/
theorem byteAt_leBytes {bs : List Byte} (hbs : bs.length ≤ 8) (k : Nat) :
    byteAt (leBytes bs) k = bs.getD k 0 := by
  induction bs generalizing k with
  | nil =>
    apply byte_ext
    intro i hi
    simp [byteAt_getLsbD, leBytes]
  | cons b bs ih =>
    simp only [List.length_cons] at hbs
    apply byte_ext
    intro i hi
    simp only [byteAt_getLsbD, leBytes, BitVec.getLsbD_or, BitVec.getLsbD_setWidth,
      BitVec.getLsbD_shiftLeft, hi, decide_true, Bool.true_and]
    cases k with
    | zero =>
      have : i < 64 := by omega
      simp [hi, this]
    | succ k =>
      have hlt : b.getLsbD (8 * (k + 1) + i) = false := BitVec.getLsbD_of_ge _ _ (by omega)
      have hge : ¬8 * (k + 1) + i < 8 := by omega
      have hsub : 8 * (k + 1) + i - 8 = 8 * k + i := by omega
      have := congrArg (fun x : Byte => x.getLsbD i) (ih (by omega) k)
      simp only [byteAt_getLsbD, hi, decide_true, Bool.true_and] at this
      simp only [hlt, Bool.and_false, Bool.false_or, hge, decide_false, Bool.not_false, hsub, this,
        List.getD_cons_succ]
      by_cases h64 : 8 * (k + 1) + i < 64
      · simp [h64]
      · have hz : bs.getD k 0 = 0 := by
          rw [List.getD_eq_getElem?_getD, List.getElem?_eq_none (by omega)]
          rfl
        rw [hz]
        simp

end Sys2Proof.Machine
end

