-- ==== Sys2Proof/Laws/Memory.lean ====
section
/-! SUPPORT. Laws/Memory: process memory: a read after a write, and the canonical form every operation keeps. -/

namespace Sys2Proof.Machine

/-! ### One byte -/

theorem wfFrom_mono {m : Memory} {lo lo' : Nat} (h : Memory.wfFrom lo m = true) (hl : lo' ≤ lo) :
    Memory.wfFrom lo' m = true := by
  cases m with
  | nil => rfl
  | cons c m =>
    simp only [Memory.wfFrom, Bool.and_eq_true, decide_eq_true_eq] at h ⊢
    exact ⟨⟨⟨by omega, h.1.1.2⟩, h.1.2⟩, h.2⟩

theorem read_below {m : Memory} {lo a : Nat} (h : Memory.wfFrom lo m = true) (ha : a < lo) :
    m.read a = Memory.blank := by
  induction m generalizing lo with
  | nil => rfl
  | cons c m ih =>
    simp only [Memory.wfFrom, Bool.and_eq_true, decide_eq_true_eq] at h
    rw [Memory.read, if_neg (by omega)]
    exact ih h.2 (by omega)

theorem write_wfFrom {m : Memory} {lo a : Nat} (v : Byte) (h : Memory.wfFrom lo m = true) (hl : lo ≤ a)
    (ha : a < 2 ^ 32) : Memory.wfFrom lo (m.write a v) = true := by
  induction m generalizing lo with
  | nil =>
    simp only [Memory.write]
    split
    · rfl
    · rename_i hv
      simp only [Memory.wfFrom, Bool.and_eq_true, decide_eq_true_eq, bne_iff_ne, ne_eq, and_true]
      exact ⟨⟨hl, ha⟩, hv⟩
  | cons c m ih =>
    have h' := h
    simp only [Memory.wfFrom, Bool.and_eq_true, decide_eq_true_eq] at h
    obtain ⟨⟨⟨h1, h2⟩, h3⟩, h4⟩ := h
    simp only [Memory.write]
    split
    · split
      · exact h'
      · rename_i hlt hv
        simp only [Memory.wfFrom, Bool.and_eq_true, decide_eq_true_eq, bne_iff_ne, ne_eq]
        exact ⟨⟨⟨hl, ha⟩, hv⟩, ⟨⟨by omega, h2⟩, by simpa using h3⟩, h4⟩
    · split
      · split
        · exact wfFrom_mono h4 (by omega)
        · rename_i hv
          subst a
          simp only [Memory.wfFrom, Bool.and_eq_true, decide_eq_true_eq, bne_iff_ne, ne_eq]
          exact ⟨⟨⟨h1, h2⟩, hv⟩, h4⟩
      · simp only [Memory.wfFrom, Bool.and_eq_true, decide_eq_true_eq]
        exact ⟨⟨⟨h1, h2⟩, h3⟩, ih h4 (by omega)⟩

/-- A write keeps the canonical form. -/
theorem write_wf {m : Memory} {a : Nat} (v : Byte) (h : m.wf = true) (ha : a < 2 ^ 32) :
    (m.write a v).wf = true :=
  write_wfFrom v h (Nat.zero_le a) ha

/-- A write leaves every other address alone. -/
theorem read_write_ne (m : Memory) {a b : Nat} (v : Byte) (h : b ≠ a) : (m.write a v).read b = m.read b := by
  induction m with
  | nil =>
    simp only [Memory.write]
    split
    · rfl
    · simp [Memory.read, Ne.symm h]
  | cons c m ih =>
    simp only [Memory.write]
    split
    · split
      · rfl
      · rw [Memory.read, if_neg (by simpa using Ne.symm h)]
    · split
      · rename_i hac
        split
        · rw [Memory.read, if_neg (by omega)]
        · rw [Memory.read, Memory.read, if_neg (by simpa using Ne.symm h), if_neg (by omega)]
      · simp only [Memory.read, ih]

theorem read_write_eqFrom {m : Memory} {lo a : Nat} (v : Byte) (h : Memory.wfFrom lo m = true) :
    (m.write a v).read a = v := by
  induction m generalizing lo with
  | nil =>
    simp only [Memory.write]
    split
    · simp [Memory.read, *]
    · simp [Memory.read]
  | cons c m ih =>
    simp only [Memory.wfFrom, Bool.and_eq_true, decide_eq_true_eq] at h
    simp only [Memory.write]
    split
    · split
      · rename_i hv
        rw [Memory.read, if_neg (by omega), hv]
        exact read_below h.2 (by omega)
      · simp [Memory.read]
    · split
      · split
        · rename_i hv
          rw [hv]
          exact read_below h.2 (by omega)
        · simp [Memory.read]
      · rw [Memory.read, if_neg (by omega)]
        exact ih h.2

/-- A read after a write to the same address gives the byte written. -/
theorem read_write_eq {m : Memory} {a : Nat} (v : Byte) (h : m.wf = true) : (m.write a v).read a = v :=
  read_write_eqFrom v h

/-! ### An access of w bytes -/

theorem foldl_write_wf (a : Word) (v : DWord) (ks : List Nat) {m : Memory} (h : m.wf = true) :
    (ks.foldl (fun m k => m.write (a + BitVec.ofNat 32 k).toNat (byteAt v k)) m).wf = true := by
  induction ks generalizing m with
  | nil => exact h
  | cons k ks ih => exact ih (write_wf _ h (BitVec.isLt _))

/-- MemWrite and the application's write keep the canonical form. -/
theorem writeBytes_wf {m : Memory} (a : Word) (w : Nat) (v : DWord) (h : m.wf = true) :
    (m.writeBytes a w v).wf = true :=
  foldl_write_wf a v _ h

theorem foldl_write_read_ne (a : Word) (v : DWord) (ks : List Nat) (m : Memory) {b : Word}
    (h : ∀ k ∈ ks, b ≠ a + BitVec.ofNat 32 k) :
    (ks.foldl (fun m k => m.write (a + BitVec.ofNat 32 k).toNat (byteAt v k)) m).read b.toNat
      = m.read b.toNat := by
  induction ks generalizing m with
  | nil => rfl
  | cons k ks ih =>
    rw [List.foldl_cons, ih _ fun k' hk' => h k' (List.mem_cons_of_mem _ hk')]
    exact read_write_ne _ _ fun he => h k (List.mem_cons_self ..) (BitVec.eq_of_toNat_eq he)

/-- A w-byte write leaves every address outside the access alone. -/
theorem read_writeBytes_ne (m : Memory) (a : Word) (w : Nat) (v : DWord) {b : Word}
    (h : b ∉ accessAddrs a w) : (m.writeBytes a w v).read b.toNat = m.read b.toNat := by
  refine foldl_write_read_ne a v _ m fun k hk he => h ?_
  exact List.mem_map.2 ⟨k, hk, he.symm⟩

theorem add_ofNat_ne {a : Word} {j k : Nat} (hj : j < 2 ^ 32) (hk : k < 2 ^ 32) (h : j ≠ k) :
    a + BitVec.ofNat 32 j ≠ a + BitVec.ofNat 32 k := by
  intro he
  have := BitVec.add_right_inj a |>.1 he
  have := congrArg BitVec.toNat this
  simp only [BitVec.toNat_ofNat] at this
  omega

/-- Byte k of the access reads as byte k of the value written (R68). -/
theorem read_writeBytes_eq {m : Memory} (a : Word) {w : Nat} (v : DWord) (h : m.wf = true) (hw : w ≤ 8)
    {k : Nat} (hk : k < w) : (m.writeBytes a w v).read (a + BitVec.ofNat 32 k).toNat = byteAt v k := by
  induction w with
  | zero => omega
  | succ w ih =>
    rw [Memory.writeBytes, List.range_succ, List.foldl_append]
    simp only [List.foldl_cons, List.foldl_nil]
    change ((Memory.writeBytes m a w v).write _ _).read _ = _
    by_cases hkw : k = w
    · subst hkw
      exact read_write_eq _ (writeBytes_wf a _ v h)
    · rw [read_write_ne]
      · exact ih (by omega) (by omega)
      · exact fun he => add_ofNat_ne (by omega) (by omega) hkw (BitVec.eq_of_toNat_eq he)

theorem mem_accessAddrs {a b : Word} {w : Nat} :
    b ∈ accessAddrs a w ↔ ∃ k < w, b = a + BitVec.ofNat 32 k := by
  simp [accessAddrs, eq_comm]

end Sys2Proof.Machine
end

