-- ==== Sys2Proof/Laws/Ops.lean ====
section
/-! SUPPORT. Laws/Ops: what the shared operations can do: slot and entry updates, sequencing, loops, latches, memory
accesses. -/

namespace Sys2Proof.Machine

/-! ### Sequencing -/

theorem andThen_next {r : Result} {f : State → Result} {t : State} (h : andThen r f = .next t) :
    ∃ s, r = .next s ∧ f s = .next t := by
  cases r with
  | next s => exact ⟨s, rfl, h⟩
  | fault e => cases h
  | refused e => cases h

@[simp] theorem andThen_of_next (s : State) (f : State → Result) : andThen (.next s) f = f s := rfl

@[simp] theorem next_inj {s t : State} : (Host.Outcome.next s : Result) = .next t ↔ s = t :=
  ⟨fun h => by cases h; rfl, fun h => by rw [h]⟩

/-- A loop keeps what every pass of its body keeps. -/
theorem forEach_inv {P : State → Prop} {body : Nat → State → Result} {is : List Nat}
    (hb : ∀ i ∈ is, ∀ s t, P s → body i s = .next t → P t) {s t : State} (hs : P s)
    (h : forEach body is s = .next t) : P t := by
  induction is generalizing s with
  | nil => cases h; exact hs
  | cons i is ih =>
    obtain ⟨u, hu, ht⟩ := andThen_next h
    exact ih (fun i hi => hb i (List.mem_cons_of_mem _ hi)) (hb i (List.mem_cons_self ..) s u hs hu) ht

/-- A result that is a next state exactly where `p` holds, and stops at a refused access elsewhere. -/
structure StopsUnless (p : Prop) (r : Result) : Prop where
  runs  : p → ∃ t, r = .next t
  stops : ¬ p → r = .fault .memoryRefused

theorem StopsUnless.next {s : State} {p : Prop} (hp : p) : StopsUnless p (.next s) :=
  ⟨fun _ => ⟨s, rfl⟩, fun h => absurd hp h⟩

theorem StopsUnless.congr {p q : Prop} {r : Result} (h : StopsUnless p r) (hpq : p ↔ q) : StopsUnless q r :=
  ⟨fun hq => h.runs (hpq.2 hq), fun hq => h.stops fun hp => hq (hpq.1 hp)⟩

/-- Two results one after the other stop where either does. -/
theorem StopsUnless.andThen {p q : Prop} {r : Result} {f : State → Result} (h : StopsUnless p r)
    (hf : ∀ t, r = .next t → StopsUnless q (f t)) : StopsUnless (p ∧ q) (Machine.andThen r f) := by
  by_cases hp : p
  · obtain ⟨t, rfl⟩ := h.runs hp
    exact (hf t rfl).congr (by simp [hp])
  · refine ⟨fun h => absurd h.1 hp, fun _ => ?_⟩
    rw [h.stops hp]
    rfl

/-- A loop stops where one of its passes does, when no pass changes another's condition. -/
theorem forEach_stops {Q : Nat → State → Prop} {body : Nat → State → Result} {is : List Nat}
    (hb : ∀ i ∈ is, ∀ s, StopsUnless (Q i s) (body i s))
    (hl : ∀ i ∈ is, ∀ s t, body i s = .next t → ∀ i' ∈ is, i' ≠ i → (Q i' t ↔ Q i' s)) (hn : is.Nodup) (s : State) :
    StopsUnless (∀ i ∈ is, Q i s) (forEach body is s) := by
  induction is generalizing s with
  | nil => exact .next (by simp)
  | cons i is ih =>
    have hi := List.mem_cons_self (a := i) (l := is)
    have hne : ∀ k ∈ is, k ≠ i := fun k hk h => (List.nodup_cons.1 hn).1 (h ▸ hk)
    have := (hb i hi s).andThen (q := ∀ k ∈ is, Q k s) (f := forEach body is) fun t ht =>
      (ih (fun k hk => hb k (.tail _ hk))
        (fun k hk u v huv k' hk' => hl k (.tail _ hk) u v huv k' (.tail _ hk'))
        (List.nodup_cons.1 hn).2 t).congr
        (forall₂_congr fun k hk => hl i hi s t ht k (.tail _ hk) (hne k hk))
    exact this.congr (by simp)

/-! ### Slots -/

theorem slot_eq (s : State) (k : Nat) : s.slot k = (s.slots[k]?).getD Slot.reset := by
  simp [State.slot, List.getD_eq_getElem?_getD]

theorem slot_of_ge {s : State} {k : Nat} (h : s.slots.length ≤ k) : s.slot k = Slot.reset := by
  simp [slot_eq, List.getElem?_eq_none h]

theorem slot_congr {s t : State} (h : t.slots = s.slots) (k : Nat) : t.slot k = s.slot k := by
  simp [slot_eq, h]

/-- S[k'] after a change of S[k]. -/
theorem slot_modSlot (s : State) (k : Nat) (f : Slot → Slot) (k' : Nat) :
    (s.modSlot k f).slot k' = if k' = k ∧ k < s.slots.length then f (s.slot k) else s.slot k' := by
  simp only [slot_eq, modSlot_slots, List.getElem?_modify]
  by_cases h : k' = k
  · subst h
    by_cases hk : k' < s.slots.length
    · simp [hk]
    · simp [hk]
  · simp [h, Ne.symm h]

@[simp] theorem slot_modSlot_ne (s : State) (k : Nat) (f : Slot → Slot) {k' : Nat} (h : k' ≠ k) :
    (s.modSlot k f).slot k' = s.slot k' := by
  simp [slot_modSlot, h]

@[simp] theorem modSlot_length (s : State) (k : Nat) (f : Slot → Slot) :
    (s.modSlot k f).slots.length = s.slots.length := by
  simp

@[simp] theorem slot_finish (s : State) (c : Status) (k : Nat) : (s.finish c).slot k = s.slot k := rfl
@[simp] theorem slot_answer (s : State) (r : Response) (k : Nat) : (s.answer r).slot k = s.slot k := rfl
@[simp] theorem slot_modTx (s : State) (j : Nat) (f : TxEntry → TxEntry) (k : Nat) :
    (s.modTx j f).slot k = s.slot k := rfl
@[simp] theorem slot_countTx (s : State) (j k : Nat) : (s.countTx j).slot k = s.slot k := rfl
@[simp] theorem slot_countRx (s : State) (i k : Nat) : (s.countRx i).slot k = s.slot k := rfl
@[simp] theorem slot_latch (s : State) (b : FaultBit) (k : Nat) : (s.latch b).slot k = s.slot k :=
  slot_congr (latch_slots s b) k

/-- The slot numbers of two TPDOs differ (R36). -/
@[simp] theorem slotTx_inj {p : Params} {j k : Nat} : p.slotTx j = p.slotTx k ↔ j = k := by
  simp [Params.slotTx]

/-! ### Compiled entries -/

theorem txEntry_eq (s : State) (j : Nat) : s.txEntry j = (s.ctx[j]?).join := by
  simp only [State.txEntry, List.getD_eq_getElem?_getD]
  cases s.ctx[j]? <;> rfl

theorem rxEntry_eq (s : State) (i : Nat) : s.rxEntry i = (s.crx[i]?).join := by
  simp only [State.rxEntry, List.getD_eq_getElem?_getD]
  cases s.crx[i]? <;> rfl

theorem txEntry_congr {s t : State} (h : t.ctx = s.ctx) (j : Nat) : t.txEntry j = s.txEntry j := by
  simp [txEntry_eq, h]

theorem rxEntry_congr {s t : State} (h : t.crx = s.crx) (i : Nat) : t.rxEntry i = s.rxEntry i := by
  simp [rxEntry_eq, h]

/-- CTX[j'] after a change of CTX[j]. -/
theorem txEntry_modTx (s : State) (j : Nat) (f : TxEntry → TxEntry) (j' : Nat) :
    (s.modTx j f).txEntry j' = if j' = j then (s.txEntry j).map f else s.txEntry j' := by
  simp only [txEntry_eq, modTx_ctx, List.getElem?_modify]
  by_cases h : j' = j
  · subst h
    cases s.ctx[j']? <;> simp
  · simp [h, Ne.symm h]

@[simp] theorem modTx_length (s : State) (j : Nat) (f : TxEntry → TxEntry) :
    (s.modTx j f).ctx.length = s.ctx.length := by
  simp

/-- A compiled TPDO has an index below N_TPDO when CTX has that size. -/
theorem txEntry_lt {s : State} {j : Nat} {c : TxEntry} (h : s.txEntry j = some c) : j < s.ctx.length := by
  rw [txEntry_eq] at h
  rcases Nat.lt_or_ge j s.ctx.length with hl | hl
  · exact hl
  · simp [List.getElem?_eq_none hl] at h

theorem rxEntry_lt {s : State} {i : Nat} {c : RxEntry} (h : s.rxEntry i = some c) : i < s.crx.length := by
  rw [rxEntry_eq] at h
  rcases Nat.lt_or_ge i s.crx.length with hl | hl
  · exact hl
  · simp [List.getElem?_eq_none hl] at h

theorem txEntry_mem {s : State} {j : Nat} {c : TxEntry} (h : s.txEntry j = some c) : some c ∈ s.ctx := by
  rw [txEntry_eq] at h
  cases h' : s.ctx[j]? with
  | none => simp [h'] at h
  | some o =>
    rw [h'] at h
    simp only [Option.join_some] at h
    exact h ▸ List.mem_of_getElem? h'

theorem rxEntry_mem {s : State} {i : Nat} {c : RxEntry} (h : s.rxEntry i = some c) : some c ∈ s.crx := by
  rw [rxEntry_eq] at h
  cases h' : s.crx[i]? with
  | none => simp [h'] at h
  | some o =>
    rw [h'] at h
    simp only [Option.join_some] at h
    exact h ▸ List.mem_of_getElem? h'

@[simp] theorem txEntry_modSlot (s : State) (k : Nat) (f : Slot → Slot) (j : Nat) :
    (s.modSlot k f).txEntry j = s.txEntry j := rfl
@[simp] theorem rxEntry_modSlot (s : State) (k : Nat) (f : Slot → Slot) (i : Nat) :
    (s.modSlot k f).rxEntry i = s.rxEntry i := rfl
@[simp] theorem rxEntry_modTx (s : State) (j : Nat) (f : TxEntry → TxEntry) (i : Nat) :
    (s.modTx j f).rxEntry i = s.rxEntry i := rfl
@[simp] theorem txEntry_finish (s : State) (c : Status) (j : Nat) : (s.finish c).txEntry j = s.txEntry j := rfl
@[simp] theorem rxEntry_finish (s : State) (c : Status) (i : Nat) : (s.finish c).rxEntry i = s.rxEntry i := rfl
@[simp] theorem txEntry_answer (s : State) (r : Response) (j : Nat) : (s.answer r).txEntry j = s.txEntry j := rfl
@[simp] theorem rxEntry_answer (s : State) (r : Response) (i : Nat) : (s.answer r).rxEntry i = s.rxEntry i := rfl
@[simp] theorem txEntry_countTx (s : State) (j k : Nat) : (s.countTx j).txEntry k = s.txEntry k := rfl
@[simp] theorem txEntry_countRx (s : State) (i k : Nat) : (s.countRx i).txEntry k = s.txEntry k := rfl
@[simp] theorem rxEntry_countRx (s : State) (i k : Nat) : (s.countRx i).rxEntry k = s.rxEntry k := rfl
@[simp] theorem rxEntry_countTx (s : State) (i k : Nat) : (s.countTx i).rxEntry k = s.rxEntry k := rfl
@[simp] theorem txEntry_latch (s : State) (b : FaultBit) (j : Nat) : (s.latch b).txEntry j = s.txEntry j :=
  txEntry_congr (latch_ctx s b) j
@[simp] theorem rxEntry_latch (s : State) (b : FaultBit) (i : Nat) : (s.latch b).rxEntry i = s.rxEntry i :=
  rxEntry_congr (latch_crx s b) i

/-! ### Faults -/

/-- A latched bit is set, and no bit is lost (R181). -/
theorem latch_fault_bit (s : State) (b : FaultBit) (i : Nat) :
    (s.latch b).fault.getLsbD i = (s.fault.getLsbD i || decide (i = b.pos)) := by
  have hb : b.pos < 5 := by cases b <;> decide
  unfold State.latch
  split
  · rename_i h
    by_cases hi : i = b.pos
    · subst hi; simp [h]
    · simp [hi]
  · simp only [BitVec.getLsbD_or, FaultBit.mask]
    congr 1
    rw [BitVec.getLsbD_shiftLeft]
    by_cases hi : i = b.pos
    · subst hi; simp [hb]
    · rcases Nat.lt_or_ge i b.pos with h | h
      · simp [h, hi]
      · have : i - b.pos ≠ 0 := by omega
        simp [hi, this]

/-- A bit is newly reported only on its edge (R181). -/
theorem latch_faultNew_bit (s : State) (b : FaultBit) (i : Nat) :
    (s.latch b).faultNew.getLsbD i =
      (s.faultNew.getLsbD i || (decide (i = b.pos) && !s.fault.getLsbD b.pos)) := by
  have hb : b.pos < 5 := by cases b <;> decide
  unfold State.latch
  split
  · rename_i h
    simp [h]
  · rename_i h
    simp only [BitVec.getLsbD_or, FaultBit.mask, h, Bool.not_false, Bool.and_true]
    congr 1
    rw [BitVec.getLsbD_shiftLeft]
    by_cases hi : i = b.pos
    · subst hi; simp [hb]
    · rcases Nat.lt_or_ge i b.pos with h | h
      · simp [h, hi]
      · have : i - b.pos ≠ 0 := by omega
        simp [hi, this]

/-- No unreported bit without its latched bit, said bit by bit. -/
theorem faults_iff {f n : BitVec 5} : n &&& ~~~f = 0 ↔ ∀ i, n.getLsbD i = true → f.getLsbD i = true := by
  constructor
  · intro h i hn
    have h5 : i < 5 := by
      by_contra hc
      simp [BitVec.getLsbD_of_ge n i (by omega)] at hn
    have := congrArg (fun x : BitVec 5 => x.getLsbD i) h
    simpa [h5, hn] using this
  · intro h
    apply BitVec.eq_of_getLsbD_eq
    intro i hi
    simp only [BitVec.getLsbD_and, BitVec.getLsbD_not, hi, decide_true, Bool.true_and]
    cases hn : n.getLsbD i with
    | false => simp
    | true => simp [h i hn]

/-! ### Memory accesses -/

/-- MemWrite changes process memory alone, or stops. -/
theorem memWrite_next {s t : State} {a : Word} {w : Nat} {v : DWord} (h : memWrite s a w v = .next t) :
    t = { s with mem := s.mem.writeBytes a w v } := by
  unfold memWrite at h
  split at h
  · cases h; rfl
  · cases h

end Sys2Proof.Machine
end

