-- ==== Sys2Proof/Laws/Compile.lean ====
section
/-! SUPPORT. Laws/Compile: what a compilation that succeeds yields (41_pdo_config.md R102 to R113): each loop of the
compiler said once. -/

namespace Sys2Proof.Machine

/-- A compiled entry starts at the running offset and is as R44 says (R109 to R112). -/
theorem compileEntry_ok {p : Params} {k : PdoKind} {m : Word} {off : Nat} {el : Elem}
    (h : compileEntry p k m off = .ok el) :
    el.off = off ∧ el.wf = true ∧ 1 ≤ el.w ∧ (k = .tx → el.kind = .data) := by
  unfold compileEntry at h
  split at h
  · cases h
  · rename_i r _
    split at h
    · split at h
      · cases h
      · split at h
        · cases h
        · rename_i hk hb
          cases h
          simp only [dummyBitsOk, Bool.not_eq_true', Bool.not_eq_false, Bool.and_eq_true, bne_iff_ne, ne_eq, beq_iff_eq, decide_eq_true_eq] at hb
          refine ⟨rfl, ?_, ?_, ?_⟩
          · simp [Elem.wf, dummyElem]; constructor <;> apply decide_eq_true <;> omega
          · simp [dummyElem]; omega
          · intro h; exact absurd h (by simpa using hk)
    · split at h
      · cases h
      · split at h
        · cases h
        · rename_i ha hh
          cases h
          simp only [attributesOk, Bool.not_eq_true', Bool.not_eq_false, Bool.and_eq_true, Bool.or_eq_true, beq_iff_eq] at ha
          have hb := ha.1.2
          refine ⟨rfl, ?_, ?_, fun _ => rfl⟩
          · simp only [Elem.wf, dataElem, BEq.rfl, Bool.and_true, Bool.or_eq_true, beq_iff_eq]
            omega
          · simp only [dataElem]; omega

/-- The entry loop of R106: the elements tile the frame from the running offset, at most 8 bytes, and the capacity holds. -/
theorem compileEntries_ok {p : Params} {k : PdoKind} {ms : List Word} {off nelem e : Nat} {c : Compiled}
    (h : compileEntries p k ms off nelem e = .ok c) (ho : off ≤ 8) :
    elemsTile off c.off c.elems = true ∧ c.off ≤ 8 ∧ off ≤ c.off ∧ c.elems.length = ms.length ∧ c.nelem = nelem + c.elems.length ∧
      (nelem ≤ p.elemCap → c.nelem ≤ p.elemCap) ∧ (k = .tx → c.elems.all (·.kind == .data) = true) ∧ (ms ≠ [] → off < c.off) := by
  induction ms generalizing off nelem e c with
  | nil => cases h; simp [elemsTile, ho]
  | cons m ms ih =>
    unfold compileEntries at h
    split at h
    · cases h
    · split at h
      · cases h
      · rename_i hcap _ el hel
        obtain ⟨e1, e2, e3, e4⟩ := compileEntry_ok hel
        split at h
        · cases h
        · split at h
          · cases h
          · rename_i hl _ c' hc'
            cases h
            obtain ⟨i1, i2, i3, i4, i5, i6, i7, i8⟩ := ih hc' (by omega)
            refine ⟨?_, i2, by simp only; omega, by simp [i4], by simp only [List.length_cons]; omega, fun _ => i6 (by omega), ?_, fun _ => by simp only; omega⟩
            · simp [elemsTile, e1, e2, i1]
            · intro hk; simp [e4 hk]; simpa using i7 hk

/-- What a compiled PDO is (R106). -/
theorem compilePdo_ok {p : Params} {k : PdoKind} {idx : Nat} {d : PdoDef} {ss : BitVec 8} {nelem : Nat}
    {c : Compiled}
    (h : compilePdo p k idx d ss nelem = .ok c) : headError k d ss = none ∧
    elemsTile 0 c.off c.elems = true ∧ 1 ≤ c.off ∧ c.off ≤ 8 ∧ 1 ≤ c.elems.length ∧ c.elems.length ≤ 8 ∧ c.elems.length = d.mapCnt.toNat ∧ c.nelem = nelem + c.elems.length ∧
      (nelem ≤ p.elemCap → c.nelem ≤ p.elemCap) ∧ (k = .tx → c.elems.all (·.kind == .data) = true) := by
  unfold compilePdo at h
  split at h
  · cases h
  · rename_i hh
    split at h
    · cases h
    · rename_i c' hc'
      cases h
      obtain ⟨i1, i2, i3, i4, i5, i6, i7, i8⟩ := compileEntries_ok hc' (by omega)
      have hm : ¬ (d.mapCnt.toNat < 1 ∨ 8 < d.mapCnt.toNat) := by
        unfold headError at hh
        repeat' split at hh
        all_goals try cases hh
        rename_i hm
        simpa using hm
      simp only [List.length_take, Vector.length_toList] at i4
      refine ⟨hh, i1, ?_, i2, by omega, by omega, by omega, i5, i6, i7⟩
      have := i8 (by intro hn; rw [hn] at hc'; have := congrArg List.length hn; simp at this; omega)
      omega

/-- The elements of a list of compiled RPDOs. -/
def rxCount (l : List (Option RxEntry)) : Nat := (l.map fun c => (c.map fun c => c.elems.length).getD 0).sum

/-- The elements of a list of compiled TPDOs. -/
def txCount (l : List (Option TxEntry)) : Nat := (l.map fun c => (c.map fun c => c.elems.length).getD 0).sum

/-- The RPDO loop of R102: one entry per definition, each well-formed, counted against ELEM_CAP. -/
theorem compileRxs_ok {p : Params} {ds : List PdoDef} {i n m : Nat} {es : List (Option RxEntry)}
    (h : compileRxs p ds i n = .ok (es, m)) :
    es.length = ds.length ∧ (∀ c ∈ es, ∀ e ∈ c, e.wf = true) ∧ m = n + rxCount es ∧ (n ≤ p.elemCap → m ≤ p.elemCap) := by
  induction ds generalizing i n m es with
  | nil => cases h; simp [rxCount]
  | cons d ds ih =>
    unfold compileRxs at h
    split at h
    · split at h
      · cases h
      · rename_i es' n' h'
        cases h
        obtain ⟨i1, i2, i3, i4⟩ := ih h'
        refine ⟨by simp [i1], ?_, ?_, i4⟩
        · intro c hc; simp only [List.mem_cons] at hc
          rcases hc with rfl | hc
          · simp
          · exact i2 c hc
        · simpa [rxCount] using i3
    · split at h
      · cases h
      · rename_i c hc
        split at h
        · cases h
        · rename_i es' n' h'
          cases h
          obtain ⟨i1, i2, i3, i4⟩ := ih h'
          obtain ⟨-, j1, j2, j3, j4, j5, -, j6, j7, j8⟩ := compilePdo_ok hc
          refine ⟨by simp [i1], ?_, ?_, fun hn => i4 (j7 hn)⟩
          · intro c hc; simp only [List.mem_cons] at hc
            rcases hc with rfl | hc
            · simp [RxEntry.wf, stageRx, *]
            · exact i2 c hc
          · simp only [rxCount, List.map_cons, List.sum_cons, Option.map_some, Option.getD_some, stageRx] at i3 ⊢
            omega

/-- The class, the SYNC bit and the cycle count of a legal TPDO type agree (R103, R104, R106). -/
theorem classOf_facts (t : BitVec 8) (_ht : t.toNat ≤ 240 ∨ 252 ≤ t.toNat) :
    isSync .tx t = (classOf t).isSync ∧ (classOf t = .syncCyc → 1 ≤ (ncycOf t).toNat ∧ (ncycOf t).toNat ≤ 240) ∧ (classOf t ≠ .syncCyc → ncycOf t = 0) := by
  unfold isSync classOf ncycOf TxClass.isSync
  have hb := t.isLt
  by_cases h0 : t.toNat = 0
  · simp [h0]
    exact BitVec.eq_of_toNat_eq (by simpa using h0)
  · by_cases h1 : t.toNat ≤ 240
    · simp [h0, h1]; omega
    · by_cases h2 : t.toNat = 252
      · simp [h2]
      · by_cases h3 : t.toNat = 253
        · simp [h3]
        · simp [h0, h1, h2, h3]

/-- A staged TPDO is as R43 says. -/
theorem stageTx_wf {d : TxDef} {c : Compiled} (hh : headError .tx d.base d.syncStart = none)
   (j1 : elemsTile 0 c.off c.elems = true) (j2 : 1 ≤ c.off) (j3 : c.off ≤ 8) (j4 : 1 ≤ c.elems.length) (j5 : c.elems.length ≤ 8)
   (j8 : c.elems.all (·.kind == .data) = true) : (stageTx d c).wf = true := by
  have ht : legalType .tx d.base.ttype = true := by
    unfold headError at hh
    repeat' split at hh
    all_goals try cases hh
    simp_all
  simp only [legalType, Bool.or_eq_true, decide_eq_true_eq] at ht
  obtain ⟨f1, f2, f3⟩ := classOf_facts _ ht
  unfold TxEntry.wf
  simp only [stageTx, j1, j8, j2, j3, j4, j5, f1, decide_true, Bool.and_true, BEq.rfl, Bool.true_and]
  cases hc : classOf d.base.ttype with
  | syncCyc => simp [f2 hc]
  | syncAcyc => simp [f3 (by simp [hc])]
  | syncRtr => simp [f3 (by simp [hc])]
  | asyncRtr => simp [f3 (by simp [hc])]
  | event => simp [f3 (by simp [hc])]

/-- The TPDO loop of R102. -/
theorem compileTxs_ok {p : Params} {ds : List TxDef} {i n m : Nat} {es : List (Option TxEntry)}
    (h : compileTxs p ds i n = .ok (es, m)) :
    es.length = ds.length ∧ (∀ c ∈ es, ∀ e ∈ c, e.wf = true) ∧ m = n + txCount es ∧ (n ≤ p.elemCap → m ≤ p.elemCap) := by
  induction ds generalizing i n m es with
  | nil => cases h; simp [txCount]
  | cons d ds ih =>
    unfold compileTxs at h
    split at h
    · split at h
      · cases h
      · rename_i es' n' h'
        cases h
        obtain ⟨i1, i2, i3, i4⟩ := ih h'
        refine ⟨by simp [i1], ?_, ?_, i4⟩
        · intro c hc; simp only [List.mem_cons] at hc
          rcases hc with rfl | hc
          · simp
          · exact i2 c hc
        · simpa [txCount] using i3
    · split at h
      · cases h
      · rename_i c hc
        split at h
        · cases h
        · rename_i es' n' h'
          cases h
          obtain ⟨i1, i2, i3, i4⟩ := ih h'
          obtain ⟨j0, j1, j2, j3, j4, j5, -, j6, j7, j8⟩ := compilePdo_ok hc
          refine ⟨by simp [i1], ?_, ?_, fun hn => i4 (j7 hn)⟩
          · intro c hc; simp only [List.mem_cons] at hc
            rcases hc with rfl | hc
            · intro e he; cases he; exact stageTx_wf j0 j1 j2 j3 j4 j5 (j8 rfl)
            · exact i2 c hc
          · simp only [txCount, List.map_cons, List.sum_cons, Option.map_some, Option.getD_some, stageTx] at i3 ⊢
            omega

/-- What a successful compilation yields (R102, R106, R108). -/
theorem compileSet_ok {p : Params} {rx : List PdoDef} {tx : List TxDef} {st : Staged}
    (h : compileSet p rx tx = .ok st) :
    st.rx.length = rx.length ∧ st.tx.length = tx.length ∧ (∀ c ∈ st.rx, ∀ e ∈ c, e.wf = true) ∧ (∀ c ∈ st.tx, ∀ e ∈ c, e.wf = true) ∧
     rxCount st.rx + txCount st.tx ≤ p.elemCap := by
  unfold compileSet at h
  split at h
  · cases h
  · rename_i srx n hr
    split at h
    · cases h
    · rename_i stx n' ht
      split at h
      · cases h
      · cases h
        obtain ⟨i1, i2, i3, i4⟩ := compileRxs_ok hr
        obtain ⟨j1, j2, j3, j4⟩ := compileTxs_ok ht
        have := i4 (by omega)
        have := j4 this
        exact ⟨i1, j1, i2, j2, by simp only; omega⟩

end Sys2Proof.Machine
end

