-- ==== Sys2Proof/Laws/Engine.lean ====
section
/-! SUPPORT. Laws/Engine: what each procedure of the PDO engine can do, said once: its next state as an update of the
old one, and when it completes. -/

namespace Sys2Proof.Machine

/-! ### Decode -/

/-- Decoding elements changes process memory alone, keeps its form, and stores to the elements' addresses
only (R128). -/
theorem decodeElems_next {d : FrameBuf} {els : List Elem} {s t : State} (h : decodeElems d els s = .next t) :
    t = { s with mem := t.mem } ∧ (s.mem.wf = true → t.mem.wf = true) ∧
      ∀ a : Word, a ∉ els.flatMap Elem.storeAddrs → t.mem.read a.toNat = s.mem.read a.toNat := by
  induction els generalizing s with
  | nil => cases h; exact ⟨rfl, id, fun _ _ => rfl⟩
  | cons el els ih =>
    obtain ⟨u, hu, ht⟩ := andThen_next h
    obtain ⟨h1, h2, h3⟩ := ih ht
    cases hk : el.kind with
    | dummy =>
      simp only [decodeElem, hk] at hu
      cases hu
      exact ⟨h1, h2, fun a ha => h3 a fun hm => ha (by simp [List.flatMap_cons, hm])⟩
    | data =>
      simp only [decodeElem, hk] at hu
      have hu' := memWrite_next hu
      subst hu'
      refine ⟨h1, fun hw => h2 (writeBytes_wf _ _ _ hw), fun a ha => ?_⟩
      simp only [List.flatMap_cons, List.mem_append, not_or, Elem.storeAddrs, hk] at ha
      rw [h3 a ha.2]
      exact read_writeBytes_ne _ _ _ _ ha.1

/-- Decoding elements stops exactly at a store the environment refuses (R70). -/
theorem decodeElems_stops (d : FrameBuf) (els : List Elem) (s : State) :
    StopsUnless (∀ a ∈ els.flatMap Elem.storeAddrs, s.params.admitsWrite a = true) (decodeElems d els s) := by
  induction els generalizing s with
  | nil => exact .next (by simp)
  | cons el els ih =>
    have h1 : StopsUnless (∀ a ∈ el.storeAddrs, s.params.admitsWrite a = true) (decodeElem d el s) := by
      unfold decodeElem Elem.storeAddrs
      cases el.kind with
      | dummy => exact .next (by simp)
      | data =>
        simp only [memWrite]
        split
        · rename_i h; exact .next (by simpa using h)
        · rename_i h; exact ⟨fun h' => absurd (by simpa using h') h, fun _ => rfl⟩
    refine (h1.andThen fun t ht => ?_).congr
      (q := ∀ a ∈ (el :: els).flatMap Elem.storeAddrs, s.params.admitsWrite a = true)
      (p := (∀ a ∈ el.storeAddrs, s.params.admitsWrite a = true) ∧
        ∀ a ∈ els.flatMap Elem.storeAddrs, s.params.admitsWrite a = true)
      (by simp only [List.flatMap_cons, List.mem_append, or_imp, forall_and])
    have hp : t.params = s.params := by
      unfold decodeElem at ht
      split at ht
      · cases ht; rfl
      · rw [memWrite_next ht]
    rw [← hp]
    exact ih t

/-- A consumed frame: NEW and OVR of one slot fall, and an overrun is latched. -/
theorem consumeNew_eq (s : State) (k : Nat) :
    s.consumeNew k =
      { s with
        slots := (s.modSlot k fun sl => { sl with new := false, ovr := false }).slots
        fault := (s.consumeNew k).fault
        faultNew := (s.consumeNew k).faultNew } := by
  unfold State.consumeNew State.latch
  split <;> try split
  all_goals rfl

/-- The fault bits after a frame is consumed (R131, R135). -/
theorem consumeNew_fault (s : State) (k : Nat) :
    (s.consumeNew k).fault = (if (s.slot k).ovr then (s.latch .swOvr).fault else s.fault) ∧
      (s.consumeNew k).faultNew = (if (s.slot k).ovr then (s.latch .swOvr).faultNew else s.faultNew) := by
  unfold State.consumeNew State.latch
  split <;> try split
  all_goals simp_all

/-- DecodeRx's frame is consumed, a mismatch latches PDO_LEN, and only a match stores and counts (R131). -/
theorem decodeRx_next {i : Nat} {s t : State} (h : decodeRx i s = .next t) :
    t = s ∨ t = { s with
      slots := (s.modSlot (s.params.slotRx i) fun sl => { sl with new := false, ovr := false }).slots
      fault := t.fault, faultNew := t.faultNew, mem := t.mem, rxCnt := t.rxCnt } := by
  unfold decodeRx at h
  split at h
  · cases h; exact .inl rfl
  · split at h
    · cases h
      right
      rw [consumeNew_eq]
      unfold State.latch
      split <;> rfl
    · obtain ⟨u, hu, ht⟩ := andThen_next h
      obtain ⟨h1, -, -⟩ := decodeElems_next hu
      cases ht
      right
      rw [h1, consumeNew_eq]
      rfl

theorem decodeRx_rxCnt_length {i : Nat} {s t : State} (h : decodeRx i s = .next t) :
    t.rxCnt.length = s.rxCnt.length := by
  unfold decodeRx at h
  split at h
  · cases h; rfl
  · split at h
    · cases h
      rw [latch_rxCnt, consumeNew_eq]
    · obtain ⟨u, hu, ht⟩ := andThen_next h
      obtain ⟨h1, -, -⟩ := decodeElems_next hu
      cases ht
      rw [countRx_rxCnt, List.length_modify, h1, consumeNew_eq]

theorem consumeNew_faults {s : State} (k : Nat) (h : s.faultNew &&& ~~~s.fault = 0) :
    (s.consumeNew k).faultNew &&& ~~~(s.consumeNew k).fault = 0 := by
  rw [faults_iff] at h ⊢
  intro i hi
  obtain ⟨h1, h2⟩ := consumeNew_fault s k
  rw [h1]
  rw [h2] at hi
  cases ho : (s.slot k).ovr with
  | false => simp only [ho] at hi ⊢; exact h i hi
  | true =>
    simp only [ho, if_true, latch_fault_bit, latch_faultNew_bit, Bool.or_eq_true, Bool.and_eq_true] at hi ⊢
    rcases hi with hi | hi
    · exact .inl (h i hi)
    · exact .inr hi.1

theorem latch_faults {s : State} (b : FaultBit) (h : s.faultNew &&& ~~~s.fault = 0) :
    (s.latch b).faultNew &&& ~~~(s.latch b).fault = 0 := by
  rw [faults_iff] at h ⊢
  intro i hi
  simp only [latch_fault_bit, latch_faultNew_bit, Bool.or_eq_true, Bool.and_eq_true] at hi ⊢
  rcases hi with hi | hi
  · exact .inl (h i hi)
  · exact .inr hi.1

theorem decodeRx_faults {i : Nat} {s t : State} (hf : s.faultNew &&& ~~~s.fault = 0)
    (h : decodeRx i s = .next t) : t.faultNew &&& ~~~t.fault = 0 := by
  unfold decodeRx at h
  split at h
  · cases h; exact hf
  · split at h
    · cases h; exact latch_faults _ (consumeNew_faults _ hf)
    · obtain ⟨u, hu, ht⟩ := andThen_next h
      obtain ⟨h1, -, -⟩ := decodeElems_next hu
      cases ht
      have := consumeNew_faults (s.params.slotRx i) hf
      simp only [countRx_fault, countRx_faultNew]
      rw [h1]
      exact this

/-- The memory after DecodeRx: its form is kept, and only a compiled PDO of the right length stores, to its
elements' addresses (R131, R147 (a)). -/
theorem decodeRx_mem {i : Nat} {s t : State} (h : decodeRx i s = .next t) :
    (s.mem.wf = true → t.mem.wf = true) ∧
      ∀ a : Word, (∀ c, s.rxEntry i = some c → (s.slot (s.params.slotRx i)).len = c.totLen →
        a ∉ c.elems.flatMap Elem.storeAddrs) → t.mem.read a.toNat = s.mem.read a.toNat := by
  unfold decodeRx at h
  split at h
  · cases h; exact ⟨id, fun _ _ => rfl⟩
  · rename_i c hc
    split at h
    · cases h
      have : (State.latch (s.consumeNew (s.params.slotRx i)) .pdoLen).mem = s.mem := by
        rw [latch_mem, consumeNew_eq]
      rw [this]
      exact ⟨id, fun _ _ => rfl⟩
    · rename_i hlen
      obtain ⟨u, hu, ht⟩ := andThen_next h
      obtain ⟨h1, h2, h3⟩ := decodeElems_next hu
      have hm : (s.consumeNew (s.params.slotRx i)).mem = s.mem := by rw [consumeNew_eq]
      cases ht
      rw [hm] at h2 h3
      refine ⟨h2, fun a ha => ?_⟩
      rw [countRx_mem]
      exact h3 a (ha c hc (by simpa using hlen))

/-- The environment admits the stores of RPDO i in a pass (R70, R131, R132). -/
def State.rxAdmitted (s : State) (sync : Bool) (i : Nat) : Prop :=
  s.decodes sync i = true →
    ∀ a ∈ (((s.rxEntry i).map (·.elems)).getD []).flatMap Elem.storeAddrs, s.params.admitsWrite a = true

/-- What the decode of one RPDO in a pass can do. -/
theorem decodeIfNew_next {sync : Bool} {i : Nat} {s t : State} (h : decodeIfNew sync i s = .next t) :
    t = s ∨ ((∃ c, s.rxEntry i = some c ∧ c.sync = sync) ∧ (s.slot (s.params.slotRx i)).new = true ∧
      decodeRx i s = .next t) := by
  unfold decodeIfNew at h
  split at h
  · cases h; exact .inl rfl
  · rename_i c hc
    split at h
    · rename_i hn
      simp only [Bool.and_eq_true, beq_iff_eq] at hn
      exact .inr ⟨⟨c, hc, hn.1⟩, hn.2, h⟩
    · cases h; exact .inl rfl

/-- The decode of one RPDO in a pass stops exactly at a store the environment refuses. -/
theorem decodeIfNew_stops (sync : Bool) (i : Nat) (s : State) :
    StopsUnless (s.rxAdmitted sync i) (decodeIfNew sync i s) := by
  unfold decodeIfNew State.rxAdmitted State.decodes
  cases hc : s.rxEntry i with
  | none => exact .next (by simp)
  | some c =>
    simp only
    split
    · rename_i hn
      unfold decodeRx
      simp only [hc]
      split
      · rename_i hl
        exact .next (by simp [hl])
      · rename_i hl
        have hp : (s.consumeNew (s.params.slotRx i)).params = s.params := by rw [consumeNew_eq]
        have := (decodeElems_stops (s.slot (s.params.slotRx i)).data c.elems
          (s.consumeNew (s.params.slotRx i))).andThen (q := True)
          (f := fun s1 => .next (s1.countRx i)) fun t _ => .next trivial
        rw [hp] at this
        refine this.congr ?_
        simp only [Decidable.not_not] at hl
        simp [hn, hl]
    · rename_i hn
      exact .next (by simp [hn])

/-! ### Encode -/

/-- EncodeTx leaves everything alone, or marks a sample of an Idle slot's compiled TPDO (R133). -/
theorem encodeTx_next {j : Nat} {mode : TxMode} {s t : State} (h : encodeTx j mode s = .next t) :
    t = s ∨ ∃ c buf, s.txEntry j = some c ∧ (s.slot (s.params.slotTx j)).txst = .idle ∧
      encodeElems s 0 c.elems = .ok buf ∧ (c.chg && c.primed && samePrefix c.totLen buf c.prev) = false ∧
      t = s.markTx j mode buf c.totLen := by
  unfold encodeTx at h
  split at h
  · cases h; exact .inl rfl
  · rename_i c hc
    split at h
    · cases h; exact .inl rfl
    · rename_i hidle
      split at h
      · cases h
      · rename_i buf hbuf
        split at h
        · cases h; exact .inl rfl
        · rename_i hsame
          cases h
          exact .inr ⟨c, buf, hc, by simpa using hidle, hbuf, by simpa using hsame, rfl⟩

/-- The state after an evaluation of TPDO j (R136, R139, R146): its sample marked or not, its trigger
consumed. -/
theorem evaluateTx_next {j : Nat} {mode : TxMode} {hit : Bool} {s t : State}
    (h : evaluateTx j mode hit s = .next t) :
    (s.txEntry j = none ∧ t = s) ∨
      (∃ c, s.txEntry j = some c ∧ ∃ u, t = u.consumeTrigger j ∧
        (u = s ∨ (eligible c (s.slot (s.params.slotTx j)) hit = true ∧ encodeTx j mode s = .next u))) := by
  unfold evaluateTx at h
  split at h
  · rename_i hc
    cases h; exact .inl ⟨hc, rfl⟩
  · rename_i c hc
    obtain ⟨u, hu, ht⟩ := andThen_next h
    cases ht
    refine .inr ⟨c, hc, u, rfl, ?_⟩
    split at hu
    · exact .inr ⟨‹_›, hu⟩
    · cases hu; exact .inl rfl

/-- Sampling elements ends in a buffer exactly where the environment admits the reads (R70). -/
theorem encodeElems_stops (s : State) (els : List Elem) (buf : FrameBuf) :
    ((∀ a ∈ els.flatMap Elem.storeAddrs, s.params.admitsRead a = true) → ∃ b, encodeElems s buf els = .ok b) ∧
      ((¬ ∀ a ∈ els.flatMap Elem.storeAddrs, s.params.admitsRead a = true) →
        encodeElems s buf els = .error .memoryRefused) := by
  induction els generalizing buf with
  | nil => exact ⟨fun _ => ⟨buf, rfl⟩, fun h => absurd (by simp) h⟩
  | cons el els ih =>
    simp only [List.flatMap_cons, List.mem_append, or_imp, forall_and, encodeElems, encodeElem, Elem.storeAddrs]
    cases hk : el.kind with
    | dummy => simpa using ih buf
    | data =>
      have hall : (accessAddrs el.addr el.w).all s.params.admitsRead = true ↔
          ∀ a ∈ accessAddrs el.addr el.w, s.params.admitsRead a = true := List.all_eq_true
      by_cases h : (accessAddrs el.addr el.w).all s.params.admitsRead = true
      · simp only [memRead, h, if_true]
        exact ⟨fun hm => (ih _).1 hm.2, fun hm => (ih _).2 fun h' => hm ⟨hall.1 h, h'⟩⟩
      · simp only [memRead, if_neg h]
        exact ⟨fun hm => absurd (hall.2 hm.1) h, fun _ => trivial⟩

/-- The environment admits the reads of an Idle, compiled TPDO's sample (R70, R133). -/
def State.readsAdmitted (s : State) (j : Nat) : Prop :=
  (s.slot (s.params.slotTx j)).txst = .idle →
    ∀ a ∈ (((s.txEntry j).map (·.elems)).getD []).flatMap Elem.storeAddrs, s.params.admitsRead a = true

theorem encodeTx_stops (j : Nat) (mode : TxMode) (s : State) :
    StopsUnless (s.readsAdmitted j) (encodeTx j mode s) := by
  unfold encodeTx State.readsAdmitted
  cases hc : s.txEntry j with
  | none => exact .next (by simp)
  | some c =>
    simp only
    split
    · rename_i h
      exact .next fun h' => absurd h' h
    · rename_i h
      have hi : (s.slot (s.params.slotTx j)).txst = .idle := by simpa using h
      obtain ⟨h1, h2⟩ := encodeElems_stops s c.elems 0
      constructor
      · intro hm
        obtain ⟨b, hb⟩ := h1 (hm hi)
        simp only [hb]
        split <;> exact ⟨_, rfl⟩
      · intro hm
        simp only [h2 fun h => hm fun _ => h]

/-- The evaluation of a TPDO stops exactly at a read the environment refuses, of an eligible one. -/
theorem evaluateTx_stops (j : Nat) (mode : TxMode) (hit : Bool) (s : State) :
    StopsUnless (∀ c ∈ s.txEntry j, eligible c (s.slot (s.params.slotTx j)) hit = true → s.readsAdmitted j)
      (evaluateTx j mode hit s) := by
  unfold evaluateTx
  cases hc : s.txEntry j with
  | none => exact .next (by simp)
  | some c =>
    simp only
    have h1 : StopsUnless (eligible c (s.slot (s.params.slotTx j)) hit = true → s.readsAdmitted j)
        (if eligible c (s.slot (s.params.slotTx j)) hit then encodeTx j mode s else .next s) := by
      split
      · rename_i he
        exact (encodeTx_stops j mode s).congr (by simp [he])
      · rename_i he
        exact .next fun h => absurd h he
    exact (h1.andThen (q := True) (f := fun s1 => .next (s1.consumeTrigger j)) fun t _ => .next trivial).congr
      (by simp)

/-! ### Fields the engine's procedures never write -/

/-- What DecodeRx, EncodeTx and a whole pass leave alone: everything but the slots, CTX, the counters, the
chain, the fault bits and process memory. -/
def EngineFrame (s t : State) : Prop :=
  t = { s with
    slots := t.slots, ctx := t.ctx, rxCnt := t.rxCnt, txCnt := t.txCnt, chain := t.chain,
    chainCur := t.chainCur, fault := t.fault, faultNew := t.faultNew, mem := t.mem }

theorem EngineFrame.refl (s : State) : EngineFrame s s := rfl

theorem EngineFrame.trans {s t u : State} (h1 : EngineFrame s t) (h2 : EngineFrame t u) : EngineFrame s u := by
  unfold EngineFrame at *
  rw [h2, h1]

theorem EngineFrame.params {s t : State} (h : EngineFrame s t) : t.params = s.params := by
  rw [show t = _ from h]

theorem consumeNew_frame (s : State) (k : Nat) : EngineFrame s (s.consumeNew k) := by
  unfold EngineFrame
  rw [consumeNew_eq]

theorem decodeIfNew_frame {sync : Bool} {i : Nat} {s t : State} (h : decodeIfNew sync i s = .next t) :
    EngineFrame s t := by
  rcases decodeIfNew_next h with rfl | ⟨-, -, h⟩
  · rfl
  · rcases decodeRx_next h with rfl | h
    · rfl
    · rw [h]; rfl

theorem markTx_frame (s : State) (j : Nat) (mode : TxMode) (buf : FrameBuf) (n : Nat) :
    EngineFrame s (s.markTx j mode buf n) := by
  cases mode <;> rfl

theorem encodeTx_frame {j : Nat} {mode : TxMode} {s t : State} (h : encodeTx j mode s = .next t) :
    EngineFrame s t := by
  rcases encodeTx_next h with rfl | ⟨c, buf, -, -, -, -, rfl⟩
  · rfl
  · exact markTx_frame ..

theorem evaluateTx_frame {j : Nat} {mode : TxMode} {hit : Bool} {s t : State}
    (h : evaluateTx j mode hit s = .next t) : EngineFrame s t := by
  rcases evaluateTx_next h with ⟨-, rfl⟩ | ⟨c, -, u, rfl, rfl | ⟨-, h⟩⟩
  · rfl
  · rfl
  · exact (encodeTx_frame h).trans rfl

theorem syncTxIf_frame {j : Nat} {s t : State} (h : syncTxIf j s = .next t) : EngineFrame s t := by
  unfold syncTxIf at h
  split at h
  · cases h; rfl
  · split at h
    · exact EngineFrame.trans (t := s.modTx j _) rfl (evaluateTx_frame h)
    · cases h; rfl

theorem asyncTxIf_frame {j : Nat} {s t : State} (h : asyncTxIf j s = .next t) : EngineFrame s t := by
  unfold asyncTxIf at h
  split at h
  · cases h; rfl
  · split at h
    · cases h; rfl
    · exact evaluateTx_frame h

theorem forEach_frame {body : Nat → State → Result} {is : List Nat}
    (hb : ∀ i s t, body i s = .next t → EngineFrame s t) {s t : State} (h : forEach body is s = .next t) :
    EngineFrame s t :=
  forEach_inv (P := EngineFrame s) (fun i _ u v hu hv => hu.trans (hb i u v hv)) (EngineFrame.refl s) h

theorem issueChain_frame (s : State) : EngineFrame s s.issueChain := by
  unfold State.issueChain
  split <;> rfl

theorem asyncPass_frame {s t : State} (h : asyncPass s = .next t) : EngineFrame s t := by
  obtain ⟨u, hu, ht⟩ := andThen_next h
  exact (forEach_frame (fun i _ _ => decodeIfNew_frame) hu).trans (forEach_frame (fun j _ _ => asyncTxIf_frame) ht)

theorem syncPass_frame {s t : State} (h : syncPass s = .next t) : EngineFrame s t := by
  obtain ⟨u, hu, ht⟩ := andThen_next h
  obtain ⟨v, hv, ht⟩ := andThen_next ht
  cases ht
  exact ((forEach_frame (fun i _ _ => decodeIfNew_frame) hu).trans
    (forEach_frame (fun j _ _ => syncTxIf_frame) hv)).trans (issueChain_frame v)

theorem rtStep_frame {s t : State} (h : rtStep s = .next t) : EngineFrame s t := by
  unfold rtStep at h
  split at h
  · exact (consumeNew_frame s _).trans (syncPass_frame h)
  · cases h; exact consumeNew_frame s _

/-! ### Where a pass stops -/

/-- The environment admits the reads of TPDO j in a pass (R70, R133, R137). -/
def State.txAdmitted (s : State) (sync : Bool) (j : Nat) : Prop :=
  s.samples sync j = true →
    ∀ a ∈ (((s.txEntry j).map (·.elems)).getD []).flatMap Elem.storeAddrs, s.params.admitsRead a = true

theorem passAdmitted_iff (s : State) (sync : Bool) :
    s.passAdmitted sync ↔ (∀ i ∈ List.range s.params.nRpdo, s.rxAdmitted sync i) ∧
      ∀ j ∈ List.range s.params.nTpdo, s.txAdmitted sync j := by
  unfold State.passAdmitted State.storeAddrs State.loadAddrs State.rxAdmitted State.txAdmitted
  simp only [List.mem_flatMap (l := List.range _), forall_exists_index, and_imp]
  constructor
  · rintro ⟨h1, h2⟩
    exact ⟨fun i hi hd a ha => h1 a i hi (by rw [if_pos hd]; exact ha),
      fun j hj hd a ha => h2 a j hj (by rw [if_pos hd]; exact ha)⟩
  · rintro ⟨h1, h2⟩
    refine ⟨fun a i hi ha => ?_, fun a j hj ha => ?_⟩
    · split at ha
      · rename_i hd; exact h1 i hi hd a ha
      · cases ha
    · split at ha
      · rename_i hd; exact h2 j hj hd a ha
      · cases ha

theorem rxAdmitted_congr {s t : State} {i : Nat} (hp : t.params = s.params) (hc : t.rxEntry i = s.rxEntry i)
    (hs : t.slot (s.params.slotRx i) = s.slot (s.params.slotRx i)) (sync : Bool) :
    t.rxAdmitted sync i ↔ s.rxAdmitted sync i := by
  unfold State.rxAdmitted State.decodes
  rw [hp, hc, hs]

theorem txAdmitted_congr {s t : State} {j : Nat} (hp : t.params = s.params) (hc : t.txEntry j = s.txEntry j)
    (hs : t.slot (s.params.slotTx j) = s.slot (s.params.slotTx j)) (sync : Bool) :
    t.txAdmitted sync j ↔ s.txAdmitted sync j := by
  unfold State.txAdmitted State.samples
  rw [hp, hc, hs]

/-- The decode of RPDO i touches no other slot, and no compiled entry. -/
theorem decodeIfNew_local {sync : Bool} {i : Nat} {s t : State} (h : decodeIfNew sync i s = .next t) :
    t.params = s.params ∧ t.crx = s.crx ∧ t.ctx = s.ctx ∧ ∀ k, k ≠ s.params.slotRx i → t.slot k = s.slot k := by
  rcases decodeIfNew_next h with rfl | ⟨-, -, h⟩
  · exact ⟨rfl, rfl, rfl, fun _ _ => rfl⟩
  · rcases decodeRx_next h with rfl | h
    · exact ⟨rfl, rfl, rfl, fun _ _ => rfl⟩
    · exact ⟨by rw [h], by rw [h], by rw [h], fun k hk =>
        (slot_congr (congrArg State.slots h) k).trans (slot_modSlot_ne s _ _ hk)⟩

theorem modTx_local (s : State) (j : Nat) (f : TxEntry → TxEntry) {j' : Nat} (hj : j' ≠ j) :
    (s.modTx j f).txEntry j' = s.txEntry j' := by
  rw [txEntry_modTx, if_neg hj]

/-- The evaluation of TPDO j touches no other slot, and no other compiled entry. -/
theorem evaluateTx_local {j : Nat} {mode : TxMode} {hit : Bool} {s t : State}
    (h : evaluateTx j mode hit s = .next t) :
    t.params = s.params ∧ (∀ k, k ≠ s.params.slotTx j → t.slot k = s.slot k) ∧
      ∀ j', j' ≠ j → t.txEntry j' = s.txEntry j' := by
  rcases evaluateTx_next h with ⟨-, rfl⟩ | ⟨c, -, u, rfl, hu⟩
  · exact ⟨rfl, fun _ _ => rfl, fun _ _ => rfl⟩
  · have key : u.params = s.params ∧ (∀ k, k ≠ s.params.slotTx j → u.slot k = s.slot k) ∧
        ∀ j', j' ≠ j → u.txEntry j' = s.txEntry j' := by
      rcases hu with rfl | ⟨-, hu⟩
      · exact ⟨rfl, fun _ _ => rfl, fun _ _ => rfl⟩
      · rcases encodeTx_next hu with rfl | ⟨c, buf, -, -, -, -, rfl⟩
        · exact ⟨rfl, fun _ _ => rfl, fun _ _ => rfl⟩
        · refine ⟨by cases mode <;> rfl, fun k hk => ?_, fun j' hj => ?_⟩
          · cases mode <;> exact slot_modSlot_ne _ _ _ hk
          · have := modTx_local s j (fun c => { c with prev := buf, primed := true }) hj
            cases mode <;> exact this
    refine ⟨key.1, fun k hk => ?_, fun j' hj => ?_⟩
    · refine (slot_modSlot_ne (u.modTx j _) _ _ ?_).trans (key.2.1 k hk)
      rw [key.1]; exact hk
    · exact (modTx_local u j _ hj).trans (key.2.2 j' hj)

theorem asyncTxIf_local {j : Nat} {s t : State} (h : asyncTxIf j s = .next t) :
    t.params = s.params ∧ (∀ k, k ≠ s.params.slotTx j → t.slot k = s.slot k) ∧
      ∀ j', j' ≠ j → t.txEntry j' = s.txEntry j' := by
  unfold asyncTxIf at h
  split at h
  · cases h; exact ⟨rfl, fun _ _ => rfl, fun _ _ => rfl⟩
  · split at h
    · cases h; exact ⟨rfl, fun _ _ => rfl, fun _ _ => rfl⟩
    · exact evaluateTx_local h

theorem syncTxIf_local {j : Nat} {s t : State} (h : syncTxIf j s = .next t) :
    t.params = s.params ∧ (∀ k, k ≠ s.params.slotTx j → t.slot k = s.slot k) ∧
      ∀ j', j' ≠ j → t.txEntry j' = s.txEntry j' := by
  unfold syncTxIf at h
  split at h
  · cases h; exact ⟨rfl, fun _ _ => rfl, fun _ _ => rfl⟩
  · split at h
    · obtain ⟨h1, h2, h3⟩ := evaluateTx_local h
      exact ⟨h1, h2, fun j' hj => (h3 j' hj).trans (modTx_local _ _ _ hj)⟩
    · cases h; exact ⟨rfl, fun _ _ => rfl, fun _ _ => rfl⟩

/-- One TPDO of PTASK stops exactly at a read the environment refuses. -/
theorem asyncTxIf_stops (j : Nat) (s : State) : StopsUnless (s.txAdmitted false j) (asyncTxIf j s) := by
  unfold asyncTxIf State.txAdmitted State.samples
  cases hc : s.txEntry j with
  | none => exact .next (by simp)
  | some c =>
    simp only
    split
    · rename_i h; exact .next (by simp [h])
    · rename_i h
      refine (evaluateTx_stops j .async false s).congr ?_
      simp only [hc, Option.mem_def, Option.some.injEq, forall_eq', State.readsAdmitted, eligible, classTerm]
      cases c.cls <;> simp [h] <;> tauto

/-- One TPDO of the RT step stops exactly at a read the environment refuses. -/
theorem syncTxIf_stops (j : Nat) (s : State) : StopsUnless (s.txAdmitted true j) (syncTxIf j s) := by
  unfold syncTxIf State.txAdmitted State.samples
  cases hc : s.txEntry j with
  | none => exact .next (by simp)
  | some c =>
    simp only
    split
    · rename_i h
      refine (evaluateTx_stops j .sync (syncTick c).2 _).congr ?_
      have htx : (s.modTx j fun d => { d with syncCnt := (syncTick d).1 }).txEntry j =
          some { c with syncCnt := (syncTick c).1 } := by rw [txEntry_modTx, if_pos rfl, hc]; rfl
      have hone : (c.syncCnt - 1 = 0) ↔ c.syncCnt = 1 := by bv_omega
      simp only [htx, Option.mem_def, Option.some.injEq, forall_eq', State.readsAdmitted, eligible, classTerm,
        slot_modTx, modTx_params, Option.map_some, Option.getD_some]
      cases hcls : c.cls <;> simp [h, syncTick, hcls] <;> try tauto
      split <;> (simp_all <;> tauto)
    · rename_i h; exact .next (by simp [h])

/-- A pass whose TPDO part is local stops exactly where one of its accesses is refused. -/
theorem pass_stops {sync : Bool} {txIf : Nat → State → Result}
    (hb : ∀ j s, StopsUnless (s.txAdmitted sync j) (txIf j s))
    (hl : ∀ j s t, txIf j s = .next t → t.params = s.params ∧
      (∀ k, k ≠ s.params.slotTx j → t.slot k = s.slot k) ∧ ∀ j', j' ≠ j → t.txEntry j' = s.txEntry j') (s : State) :
    StopsUnless (s.passAdmitted sync)
      (andThen (forEach (decodeIfNew sync) (List.range s.params.nRpdo) s) fun s1 =>
        forEach txIf (List.range s1.params.nTpdo) s1) := by
  rw [passAdmitted_iff]
  refine (forEach_stops (Q := fun i s => s.rxAdmitted sync i) (fun i _ s => decodeIfNew_stops sync i s) ?_
    List.nodup_range s).andThen fun t ht => ?_
  · intro i _ u v h i' _ hne
    obtain ⟨h1, h2, -, h4⟩ := decodeIfNew_local h
    exact rxAdmitted_congr h1 (rxEntry_congr h2 _) (h4 _ hne) sync
  · have hk : t.params = s.params ∧ t.ctx = s.ctx ∧ ∀ j, t.slot (s.params.slotTx j) = s.slot (s.params.slotTx j) := by
      refine forEach_inv (P := fun t => t.params = s.params ∧ t.ctx = s.ctx ∧
        ∀ j, t.slot (s.params.slotTx j) = s.slot (s.params.slotTx j)) ?_ ⟨rfl, rfl, fun _ => rfl⟩ ht
      rintro i hi u v ⟨h1, h2, h3⟩ huv
      obtain ⟨g1, -, g3, g4⟩ := decodeIfNew_local huv
      refine ⟨g1.trans h1, g3.trans h2, fun j => (g4 _ ?_).trans (h3 j)⟩
      have := List.mem_range.1 hi
      simp only [Params.slotTx, Params.slotRx]
      omega
    rw [← hk.1]
    refine (forEach_stops (Q := fun j s => s.txAdmitted sync j) (fun j _ s => hb j s) ?_ List.nodup_range t).congr ?_
    · intro j _ u v h j' _ hne
      obtain ⟨h1, h2, h3⟩ := hl j u v h
      exact txAdmitted_congr h1 (h3 _ hne) (h2 _ (by simpa using hne)) sync
    · exact forall₂_congr fun j _ => txAdmitted_congr hk.1 (txEntry_congr hk.2.1 j) (hk.2.2 j) sync

/-- The asynchronous pass stops exactly at a refused access it makes. -/
theorem asyncPass_stops (s : State) : StopsUnless (s.passAdmitted false) (asyncPass s) :=
  pass_stops asyncTxIf_stops (fun _ _ _ => asyncTxIf_local) s

/-- PTASK stops exactly at a refused access it makes (R70). -/
theorem execPtask_stops (s : State) :
    StopsUnless (s.active = true → s.passAdmitted false) (execPtask s) := by
  unfold execPtask
  split
  · rename_i h
    exact ((asyncPass_stops s).andThen (q := True) (f := fun s1 => .next (s1.finish .ok)) fun t _ =>
      .next trivial).congr (by simp [h])
  · rename_i h
    exact .next fun h' => absurd h' h

theorem passAdmitted_consume (s : State) : (s.consumeNew s.params.syncS).passAdmitted true ↔ s.passAdmitted true := by
  have hp := (consumeNew_frame s s.params.syncS).params
  have hs : ∀ k, k ≠ s.params.syncS → (s.consumeNew s.params.syncS).slot k = s.slot k := fun k hk =>
    (slot_congr (congrArg State.slots (consumeNew_eq s s.params.syncS)) k).trans (slot_modSlot_ne s _ _ hk)
  rw [passAdmitted_iff, passAdmitted_iff, hp]
  refine and_congr (forall₂_congr fun i hi => rxAdmitted_congr hp ?_ (hs _ ?_) true)
    (forall₂_congr fun j hj => txAdmitted_congr hp ?_ (hs _ ?_) true)
  · rw [consumeNew_eq]; rfl
  · have := List.mem_range.1 hi
    simp only [Params.slotRx, Params.syncS, Params.emcyS]
    omega
  · rw [consumeNew_eq]; rfl
  · have := List.mem_range.1 hj
    simp only [Params.slotTx, Params.syncS, Params.emcyS]
    omega

/-- The RT step stops exactly at a refused access it makes (R70). -/
theorem rtStep_stops (s : State) : StopsUnless (s.active = true → s.passAdmitted true) (rtStep s) := by
  unfold rtStep
  split
  · rename_i h
    have := (pass_stops syncTxIf_stops (fun _ _ _ => syncTxIf_local) (s.consumeNew s.params.syncS)).andThen
      (q := True) (f := fun s2 => .next s2.issueChain) fun t _ => .next trivial
    refine StopsUnless.congr (p := (s.consumeNew s.params.syncS).passAdmitted true ∧ True) ?_
      (by simp [passAdmitted_consume, h])
    unfold syncPass
    convert this using 1
    cases forEach (decodeIfNew true) (List.range (s.consumeNew s.params.syncS).params.nRpdo)
      (s.consumeNew s.params.syncS) <;> rfl
  · rename_i h
    exact .next fun h' => absurd h' h

end Sys2Proof.Machine
end

