-- ==== Sys2Proof/Laws/Invariants.lean ====
section
/-! SUPPORT. Laws/Invariants: each shared operation keeps Inv (Safety.lean), said once per operation, so that a proof
about a step is a case analysis over the operations it calls. -/

namespace Sys2Proof.Machine

/-- Two states that agree on everything Inv speaks of but the fault bits. -/
structure SameCore (s t : State) : Prop where
  params : t.params = s.params
  slots : t.slots = s.slots
  crx : t.crx = s.crx
  ctx : t.ctx = s.ctx
  active : t.active = s.active
  chain : t.chain = s.chain
  chainCur : t.chainCur = s.chainCur
  rxCnt : t.rxCnt.length = s.rxCnt.length
  txCnt : t.txCnt.length = s.txCnt.length
  mem : t.mem = s.mem
  syncInstalled : t.syncInstalled = s.syncInstalled
  validIn : t.validIn = s.validIn
  syncCobId : t.syncCobId = s.syncCobId
  defRx : t.defRx.length = s.defRx.length
  defTx : t.defTx.length = s.defTx.length

/-- Inv does not see the other fields. -/
theorem Inv.quiet {s t : State} (hi : Inv s) (h : SameCore s t) (hf : t.faultNew &&& ~~~t.fault = 0) : Inv t :=
    by
  obtain ⟨⟨p, a1, a2, a3, a4, a5, a6, a7, a8, a9⟩, ⟨b1, b2, b3⟩, ⟨c1, c2, c3, c4, c5, c6, c7, c8, c9⟩, ⟨d1, d2, d3, d4, d5, d6, d7, d8, d9, d10, d11, d12, d13⟩, ⟨e1⟩⟩ := hi
  obtain ⟨h1, h2, h3, h4, h5, h6, h7, h8, h9, h10, h11, h12, h13, h14, h15⟩ := h
  have hs := slot_congr h2
  have hr := rxEntry_congr h3
  have ht := txEntry_congr h4
  refine ⟨⟨?_, ?_, ?_, ?_, ?_, ?_, ?_, ?_, ?_, ?_⟩, ⟨?_, ?_, ?_⟩, ⟨?_, ?_, ?_, ?_, ?_, ?_, ?_, ?_, ?_⟩,
    ⟨?_, ?_, ?_, ?_, ?_, ?_, ?_, ?_, ?_, ?_, ?_, ?_, hf⟩, ⟨?_⟩⟩ <;>
    simp only [h1, h2, h3, h4, h5, h6, h7, h8, h9, h10, h11, h12, h13, h14, h15, hs, hr, ht, State.elemCount] at * <;> assumption

/-- A change of slot k that every part of Inv allows. -/
structure SlotOk (s : State) (k : Nat) (a b : Slot) : Prop where
  len : a.len ≤ 8 → b.len ≤ 8
  txst : b.txst = a.txst
  reg : b.reg = a.reg
  rtrReg : b.rtrReg = a.rtrReg
  hpRx : b.hpRx = a.hpRx
  vhpRx : b.vhpRx = a.vhpRx
  id : b.id = a.id
  ovr : (a.ovr = true → a.new = true) → b.ovr = true → b.new = true
  new : (a.new = true → a.reg = true) → b.new = true → b.reg = true
  rtr : (a.rtr = true → a.rtrReg = true) → b.rtr = true → b.rtrReg = true
  frame : (a.txst ≠ .idle → a.len = 8 ∧ byteAt a.data 7 = 0) → k = s.params.emcyS → b.txst ≠ .idle → b.len = 8 ∧ byteAt b.data 7 = 0

theorem ShapeInv.slot {s : State} (hi : ShapeInv s) (k : Nat) (f : Slot → Slot)
    (h : SlotOk s k (s.slot k) (f (s.slot k))) : ShapeInv (s.modSlot k f) := by
  obtain ⟨p, a1, a2, a3, a4, a5, a6, a7, a8, a9⟩ := hi
  refine ⟨p, by simpa using a1, a2, a3, a4, a5, a6, a7, fun k' hk' => ?_, a9⟩
  have := h.len
  rw [modSlot_params] at hk'
  have := a8 k' hk'
  clear p
  rw [slot_modSlot]
  grind

theorem CompiledInv.slot {s : State} (hi : CompiledInv s) (k : Nat) (f : Slot → Slot) : CompiledInv
    (s.modSlot k f) :=
  ⟨hi.rx, hi.tx, hi.capacity⟩

theorem ChainInv.slot {s : State} (hi : ChainInv s) (k : Nat) (f : Slot → Slot)
    (h : (f (s.slot k)).txst = (s.slot k).txst) : ChainInv (s.modSlot k f) := by
  have hs : ∀ k', ((s.modSlot k f).slot k').txst = (s.slot k').txst := by
    intro k'; rw [slot_modSlot]; split
    · rename_i h'; rw [h'.1, h]
    · rfl
  obtain ⟨c1, c2, c3, c4, c5, c6, c7, c8, c9⟩ := hi
  refine ⟨?_, ?_, ?_, ?_, ?_, ?_, ?_, ?_, ?_⟩ <;>
    simp only [modSlot_params, modSlot_active, modSlot_chain, modSlot_chainCur, modSlot_ctx, modSlot_crx, txEntry_modSlot,
      Slot.transportOwned, hs] at * <;> assumption

theorem RegInv.slot {s : State} (hi : RegInv s) (k : Nat) (f : Slot → Slot)
    (h : SlotOk s k (s.slot k) (f (s.slot k))) : RegInv (s.modSlot k f) := by
  obtain ⟨d1, d2, d3, d4, d5, d6, d7, d8, d9, d10, d11, d12, d13⟩ := hi
  have hs : ∀ k', (s.modSlot k f).slot k' = s.slot k' ∨ (k' = k ∧ (s.modSlot k f).slot k' = f (s.slot k)) := by
    intro k'; rw [slot_modSlot]; split
    · rename_i h'; exact .inr ⟨h'.1, rfl⟩
    · exact .inl rfl
  obtain ⟨h1, h2, h3, h4, h5, h6, h7, h8, h9, h10, h11⟩ := h
  constructor <;> simp only [modSlot_params, modSlot_syncInstalled, modSlot_validIn, modSlot_syncCobId, modSlot_fault,
    modSlot_faultNew, txEntry_modSlot, rxEntry_modSlot] <;> grind

theorem EmcyInv.slot {s : State} (hi : EmcyInv s) (k : Nat) (f : Slot → Slot)
    (h : SlotOk s k (s.slot k) (f (s.slot k))) : EmcyInv (s.modSlot k f) := by
  obtain ⟨e⟩ := hi
  have := h.frame
  constructor
  simp only [modSlot_params, slot_modSlot]
  grind

/-- A change of one slot that SlotOk allows keeps Inv. -/
theorem Inv.slot {s : State} (hi : Inv s) (k : Nat) (f : Slot → Slot)
    (h : SlotOk s k (s.slot k) (f (s.slot k))) : Inv (s.modSlot k f) :=
  ⟨hi.shape.slot k f h, hi.compiled.slot k f, hi.chain.slot k f h.txst, hi.reg.slot k f h, hi.emcy.slot k f h⟩

/-- Consuming a frame (R131, R135) keeps Inv. -/
theorem consumeNew_inv {s : State} (hi : Inv s) (k : Nat) : Inv (s.consumeNew k) := by
  have h1 : Inv (s.modSlot k fun sl => { sl with new := false, ovr := false }) := by
    apply hi.slot
    constructor <;> simp
    grind
  refine h1.quiet ?_ (consumeNew_faults k hi.reg.faults)
  rw [consumeNew_eq]
  constructor <;> rfl

/-- DecodeRx (R131) keeps Inv. -/
theorem decodeRx_inv {i : Nat} {s t : State} (hi : Inv s) (h : decodeRx i s = .next t) : Inv t := by
  have hf := decodeRx_faults hi.reg.faults h
  have hl := decodeRx_rxCnt_length h
  have hm := (decodeRx_mem h).1 hi.shape.mem
  rcases decodeRx_next h with rfl | h'
  · exact hi
  · have h1 : Inv { (s.modSlot (s.params.slotRx i) fun sl => { sl with new := false, ovr := false }) with mem := t.mem } := by
      have h2 : Inv (s.modSlot (s.params.slotRx i) fun sl => { sl with new := false, ovr := false }) := by
        apply hi.slot
        constructor <;> simp
        grind
      exact ⟨⟨h2.shape.params, h2.shape.slots, h2.shape.defRx, h2.shape.defTx, h2.shape.crx, h2.shape.ctx, h2.shape.rxCnt, h2.shape.txCnt, h2.shape.len, hm⟩,
        ⟨h2.compiled.rx, h2.compiled.tx, h2.compiled.capacity⟩, ⟨h2.chain.inactive, h2.chain.queued, h2.chain.nodup, h2.chain.filling, h2.chain.current, h2.chain.idle, h2.chain.emcy, h2.chain.withdrawn, h2.chain.chained⟩,
        ⟨h2.reg.overrun, h2.reg.received, h2.reg.requested, h2.reg.rxReg, h2.reg.txRtr, h2.reg.regOnly, h2.reg.rtrRegOnly, h2.reg.syncReg, h2.reg.hpRx, h2.reg.vhpRx, h2.reg.installed, h2.reg.syncId, h2.reg.faults⟩, ⟨h2.emcy.frame⟩⟩
    refine h1.quiet ?_ hf
    rw [h'] at hl ⊢
    constructor <;> first | rfl | exact hl

/-- The decode of one RPDO in a pass keeps Inv. -/
theorem decodeIfNew_inv {sync : Bool} {i : Nat} {s t : State} (hi : Inv s)
    (h : decodeIfNew sync i s = .next t) : Inv t := by
  rcases decodeIfNew_next h with rfl | ⟨-, -, h⟩
  · exact hi
  · exact decodeRx_inv hi h

/-- A change of a TPDO entry that leaves its SYNC bit and its elements keeps Inv. -/
theorem modTx_inv {s : State} (hi : Inv s) (j : Nat) (f : TxEntry → TxEntry)
    (hf : ∀ c, s.txEntry j = some c → (f c).sync = c.sync ∧ (f c).elems = c.elems ∧ (c.wf = true → (f c).wf = true)) : Inv (s.modTx j f) := by
  have hj : ∀ (o : Option TxEntry), s.ctx[j]? = some o → s.txEntry j = o := by
    intro o ho; rw [txEntry_eq, ho]; rfl
  have hmem : ∀ c ∈ (s.modTx j f).ctx, c ∈ s.ctx ∨ ∃ c', s.txEntry j = some c' ∧ some c' ∈ s.ctx ∧ c = some (f c') := by
    intro c hc
    rw [modTx_ctx] at hc
    obtain ⟨i, hi'⟩ := List.mem_iff_getElem?.1 hc
    rw [List.getElem?_modify] at hi'
    by_cases hij : j = i
    · subst hij
      cases ho : s.ctx[j]? with
      | none => simp [ho] at hi'
      | some o =>
        simp only [ho, if_true, Option.map_eq_map, Option.map_some, Option.some.injEq] at hi'
        cases o with
        | none => left; simp at hi'; subst hi'; exact List.mem_of_getElem? ho
        | some c' => right; exact ⟨c', hj _ ho, List.mem_of_getElem? ho, by simpa using hi'.symm⟩
    · left
      cases ho : s.ctx[i]? with
      | none => simp [ho] at hi'
      | some o => simp [ho, hij] at hi'; subst hi'; exact List.mem_of_getElem? ho
  have hany : ∀ j', ((s.modTx j f).txEntry j').any (·.sync) = (s.txEntry j').any (·.sync) := by
    intro j'
    rw [txEntry_modTx]
    split
    · rename_i hh
      subst hh
      cases hc : s.txEntry j' with
      | none => rfl
      | some c => simp [(hf c hc).1]
    · rfl
  have hsome : ∀ j', ((s.modTx j f).txEntry j').isSome = (s.txEntry j').isSome := by
    intro j'
    rw [txEntry_modTx]
    split
    · rename_i hh; subst hh; simp
    · rfl
  have hcount : (s.modTx j f).elemCount = s.elemCount := by
    unfold State.elemCount
    congr 2
    rw [modTx_ctx]
    apply List.ext_getElem?
    intro i
    simp only [List.getElem?_map, List.getElem?_modify]
    by_cases hij : j = i
    · subst hij
      cases ho : s.ctx[j]? with
      | none => simp
      | some o =>
        cases o with
        | none => simp
        | some c' => simp [(hf c' (hj _ ho)).2.1]
    · simp [hij]
  obtain ⟨⟨p, a1, a2, a3, a4, a5, a6, a7, a8, a9⟩, ⟨b1, b2, b3⟩, ⟨c1, c2, c3, c4, c5, c6, c7, c8, c9⟩, ⟨d1, d2, d3, d4, d5, d6, d7, d8, d9, d10, d11, d12, d13⟩, ⟨e1⟩⟩ := hi
  refine ⟨⟨p, a1, a2, a3, a4, by simpa using a5, a6, a7, a8, a9⟩, ⟨b1, ?_, by rw [hcount]; exact b3⟩, ⟨?_, ?_, c3, c4, ?_, c6, c7, c8, ?_⟩,
    ⟨d1, d2, d3, d4, ?_, d6, d7, d8, d9, d10, d11, d12, d13⟩, ⟨e1⟩⟩
  · intro c hc e he
    rcases hmem c hc with h | ⟨c', hc', hm, rfl⟩
    · exact b2 c h e he
    · simp only [Option.mem_def, Option.some.injEq] at he
      subst he
      exact (hf c' hc').2.2 (b2 _ hm c' rfl)
  · intro ha
    obtain ⟨x1, x2, x3, x4⟩ := c1 ha
    refine ⟨x1, fun c hc => ?_, x3, x4⟩
    rcases hmem c hc with h | ⟨c', hc', hm, rfl⟩
    · exact x2 c h
    · cases x2 _ hm
  · intro j' hj'
    rw [hany]; exact c2 j' hj'
  · intro j' hj'
    rw [hany]; exact c5 j' hj'
  · intro j' hj' h1 h2
    rw [hany] at h2; exact c9 j' hj' h1 h2
  · intro j' hj' h
    rw [hsome]; exact d5 j' hj' h

/-- Consume (R139) keeps Inv. -/
theorem consumeTrigger_inv {s : State} (hi : Inv s) (j : Nat) : Inv (s.consumeTrigger j) := by
  unfold State.consumeTrigger
  apply Inv.slot
  · exact modTx_inv hi j _ fun c _ => ⟨rfl, rfl, id⟩
  · constructor <;> simp
    grind

theorem slotTx_send (p : Params) {j : Nat} (hj : j < p.nTpdo) : p.isSendSlot (p.slotTx j) = true := by
  simp [Params.isSendSlot, Params.isTxSlot, Params.slotTx, hj]

theorem slotTx_lt (p : Params) {j : Nat} (hj : j < p.nTpdo) : p.slotTx j < p.nSlot := by
  simp [Params.slotTx, Params.nSlot]; omega

theorem slotTx_ne_emcy (p : Params) {j : Nat} (hj : j < p.nTpdo) : p.slotTx j ≠ p.emcyS := by
  simp [Params.slotTx, Params.emcyS]; omega

/-- Marking an Idle TPDO slot (R133), queued in the chain for a synchronous TPDO, keeps Inv. -/
theorem marked_inv {s : State} (hi : Inv s) {j : Nat} {c : TxEntry} (hc : s.txEntry j = some c) (mode : TxMode)
    (hs : c.sync = (mode == .sync)) (hidle : (s.slot (s.params.slotTx j)).txst = .idle) (buf : FrameBuf) (n : Nat) (hn : n ≤ 8) :
    Inv ((s.modSlot (s.params.slotTx j) (markSlot mode buf n)).queueTx j mode) := by
  have hact : s.active = true := by
    cases ha : s.active with
    | true => rfl
    | false =>
      have := (hi.chain.inactive ha).2.1 _ (txEntry_mem hc)
      cases this
  obtain ⟨⟨p, a1, a2, a3, a4, a5, a6, a7, a8, a9⟩, ⟨b1, b2, b3⟩, ⟨c1, c2, c3, c4, c5, c6, c7, c8, c9⟩, ⟨d1, d2, d3, d4, d5, d6, d7, d8, d9, d10, d11, d12, d13⟩, ⟨e1⟩⟩ := hi
  have hj : j < s.params.nTpdo := a5 ▸ txEntry_lt hc
  have hk := slotTx_lt s.params hj
  have hsend := slotTx_send s.params hj
  have hne := slotTx_ne_emcy s.params hj
  have hq : ∀ t : State, t.queueTx j mode = { t with chain := (t.queueTx j mode).chain } := by
    intro t; cases mode <;> rfl
  have hch : ((s.modSlot (s.params.slotTx j) (markSlot mode buf n)).queueTx j mode).chain = if mode = .sync then s.chain ++ [j] else s.chain := by
    cases mode <;> rfl
  have hsl : ∀ k', ((s.modSlot (s.params.slotTx j) (markSlot mode buf n)).queueTx j mode).slot k' =
     if k' = s.params.slotTx j then markSlot mode buf n (s.slot (s.params.slotTx j)) else s.slot k' := by
    intro k'
    have : ((s.modSlot (s.params.slotTx j) (markSlot mode buf n)).queueTx j mode).slot k' = (s.modSlot (s.params.slotTx j) (markSlot mode buf n)).slot k' := by
      rw [hq]; rfl
    rw [this, slot_modSlot]
    simp [a1, hk]
  generalize ht : (s.modSlot (s.params.slotTx j) (markSlot mode buf n)).queueTx j mode = t at *
  have h1 : t.params = s.params := by rw [← ht, hq]; rfl
  have h3 : t.crx = s.crx := by rw [← ht, hq]; rfl
  have h4 : t.ctx = s.ctx := by rw [← ht, hq]; rfl
  have h5 : t.active = s.active := by rw [← ht, hq]; rfl
  have h6 : t.chainCur = s.chainCur := by rw [← ht, hq]; rfl
  have h7 : t.rxCnt = s.rxCnt := by rw [← ht, hq]; rfl
  have h8 : t.txCnt = s.txCnt := by rw [← ht, hq]; rfl
  have h9 : t.mem = s.mem := by rw [← ht, hq]; rfl
  have h10 : t.syncInstalled = s.syncInstalled := by rw [← ht, hq]; rfl
  have h11 : t.validIn = s.validIn := by rw [← ht, hq]; rfl
  have h12 : t.syncCobId = s.syncCobId := by rw [← ht, hq]; rfl
  have h13 : t.defRx = s.defRx := by rw [← ht, hq]; rfl
  have h14 : t.defTx = s.defTx := by rw [← ht, hq]; rfl
  have h15 : t.fault = s.fault := by rw [← ht, hq]; rfl
  have h16 : t.faultNew = s.faultNew := by rw [← ht, hq]; rfl
  have h17 : t.slots.length = s.slots.length := by rw [← ht, hq]; simp
  have hr := rxEntry_congr h3
  have htx := txEntry_congr h4
  have hst : (markSlot mode buf n (s.slot (s.params.slotTx j))).txst = mode.state := rfl
  have hms : mode.state = .ready ∧ c.sync = false ∧ t.chain = s.chain ∨ mode.state = .filling ∧ c.sync = true ∧ t.chain = s.chain ++ [j] := by
    cases mode
    · right; exact ⟨rfl, by simpa using hs, by simpa using hch⟩
    · left; exact ⟨rfl, hs.trans (by decide), by simpa using hch⟩
  clear ht hq hch
  refine ⟨⟨by rw [h1]; exact p, ?_, ?_, ?_, ?_, ?_, ?_, ?_, ?_, ?_⟩, ⟨?_, ?_, ?_⟩, ⟨?_, ?_, ?_, ?_, ?_, ?_, ?_, ?_, ?_⟩,
    ⟨?_, ?_, ?_, ?_, ?_, ?_, ?_, ?_, ?_, ?_, ?_, ?_, ?_⟩, ⟨?_⟩⟩ <;>
    simp only [h1, h3, h4, h5, h6, h7, h8, h9, h10, h11, h12, h13, h14, h15, h16, h17, hsl, hr, htx, State.elemCount] at * <;> clear p <;> try assumption
  · intro k hk'
    split
    · exact hn
    · exact a8 k hk'
  · intro ha; simp [hact] at ha
  · clear d1 d2 d3 d4 d5 d6 d7 d8 d9 d10 d11 d12 d13 e1
    intro j' hj'
    have := slotTx_inj (p := s.params) (j := j') (k := j)
    by_cases hjj : j' = j
    · subst hjj
      rcases hms with ⟨h1, h2, h3⟩ | ⟨h1, h2, h3⟩
      · rw [h3] at hj'
        have := c2 _ hj'; grind
      · simp [hst, h1, hc, h2, hj]
    · have : j' ∈ s.chain := by grind
      have := c2 _ this
      grind
  · rcases hms with ⟨h1, h2, h3⟩ | ⟨h1, h2, h3⟩
    · rw [h3]; exact c3
    · rw [h3]
      have : j ∉ s.chain := by
        intro hm; have := c2 _ hm; grind
      simp [List.nodup_append, c3]
      grind
  · intro j' hj' h
    have := slotTx_inj (p := s.params) (j := j') (k := j)
    have := c4 j' hj'
    grind
  · intro j' hj'
    have hinj := slotTx_inj (p := s.params) (j := j') (k := j)
    have h5 := c5 j' hj'
    by_cases hjj : j' = j
    · subst hjj; have h6 := h5.2.1; rw [Slot.transportOwned, hidle] at h6; cases h6
    · grind
  · intro k hk'
    have := c6 k hk'
    grind
  · grind
  · intro ha; simp [hact] at ha
  · intro j' hj'
    have := slotTx_inj (p := s.params) (j := j') (k := j)
    have := c9 j' hj'
    by_cases hjj : j' = j
    · subst hjj
      simp only [if_true, hc]
      intro ho hsy
      rcases hms with ⟨h1, h2, h3⟩ | ⟨h1, h2, h3⟩
      · simp [h2] at hsy
      · simp [Slot.transportOwned, hst, h1] at ho
    · grind
  · intro k hk' h
    have := d1 k hk'
    split
    · rename_i hh; rw [if_pos hh] at h; subst hh; exact this h
    · rename_i hh; rw [if_neg hh] at h; exact this h
  · intro k hk' h
    have := d2 k hk'
    split
    · rename_i hh; rw [if_pos hh] at h; subst hh; exact this h
    · rename_i hh; rw [if_neg hh] at h; exact this h
  · intro k hk' h
    have := d3 k hk'
    split
    · rename_i hh; rw [if_pos hh] at h; subst hh; exact this h
    · rename_i hh; rw [if_neg hh] at h; exact this h
  · intro i hi'
    have := d4 i hi'
    split
    · rename_i hh; rw [← hh]; exact this
    · exact this
  · intro j' hj' h
    have := d5 j' hj'
    split at h
    · rename_i hh; rw [hh] at this; exact this h
    · exact this h
  · intro k hk' h
    have := d6 k hk'
    split at h
    · rename_i hh; rw [hh] at this; rw [hh]; exact this h
    · exact this h
  · intro k hk' h
    have := d7 k hk'
    split at h
    · rename_i hh; rw [hh] at this; rw [hh]; exact this h
    · exact this h
  · split
    · rename_i hh; rw [← d8, hh]; rfl
    · exact d8
  · intro k hk'
    have := d9 k hk'
    split
    · rename_i hh; rw [hh] at this ⊢; exact this
    · exact this
  · intro k hk'
    have := d10 k hk'
    split
    · rename_i hh; rw [hh] at this; exact this
    · exact this
  · intro h
    have := d12 h
    split
    · rename_i hh; rw [hh] at this; exact this
    · exact this
  · intro h
    rw [if_neg (Ne.symm hne)] at h ⊢
    exact e1 h

theorem TxEntry.wf_of_elems {c : TxEntry} (h : c.wf = true) : c.totLen ≤ 8 := by
  simp only [TxEntry.wf, Bool.and_eq_true, decide_eq_true_eq] at h
  exact h.1.1.1.1.1.1.2

theorem Inv.txWf {s : State} (hi : Inv s) {j : Nat} {c : TxEntry} (hc : s.txEntry j = some c) : c.wf = true :=
  hi.compiled.tx _ (txEntry_mem hc) c rfl

/-- The writes of a marked sample (R133) keep Inv. -/
theorem markTx_inv {s : State} (hi : Inv s) {j : Nat} {c : TxEntry} (hc : s.txEntry j = some c) (mode : TxMode)
    (hs : c.sync = (mode == .sync)) (hidle : (s.slot (s.params.slotTx j)).txst = .idle) (buf : FrameBuf) :
    Inv (s.markTx j mode buf c.totLen) := by
  unfold State.markTx
  have h1 : Inv (s.modTx j fun c => { c with prev := buf, primed := true }) :=
    modTx_inv hi j _ fun c' _ => ⟨rfl, rfl, id⟩
  have h2 : Inv ((s.modTx j fun c => { c with prev := buf, primed := true }).countTx j) := by
    refine h1.quiet ?_ h1.reg.faults
    constructor <;> first | rfl | simp
  refine marked_inv (s := (s.modTx j fun c => { c with prev := buf, primed := true }).countTx j) (c := { c with prev := buf, primed := true }) h2 ?_ mode hs hidle buf c.totLen (TxEntry.wf_of_elems (hi.txWf hc))
  simp [txEntry_modTx, hc]

/-- EncodeTx (R133) keeps Inv. -/
theorem encodeTx_inv {j : Nat} {mode : TxMode} {s t : State} (hi : Inv s)
    (hs : ∀ c, s.txEntry j = some c → c.sync = (mode == .sync)) (h : encodeTx j mode s = .next t) : Inv t := by
  rcases encodeTx_next h with rfl | ⟨c, buf, hc, hid, -, -, rfl⟩
  · exact hi
  · exact markTx_inv hi hc mode (hs c hc) hid buf

/-- An evaluation of a TPDO keeps Inv. -/
theorem evaluateTx_inv {j : Nat} {mode : TxMode} {hit : Bool} {s t : State} (hi : Inv s)
    (hs : ∀ c, s.txEntry j = some c → c.sync = (mode == .sync)) (h : evaluateTx j mode hit s = .next t) : Inv t := by
  rcases evaluateTx_next h with ⟨-, rfl⟩ | ⟨c, hc, u, rfl, rfl | ⟨-, h⟩⟩
  · exact hi
  · exact consumeTrigger_inv hi j
  · exact consumeTrigger_inv (encodeTx_inv hi hs h) j

/-- The SYNC counter stays in 1..NCYC (R136). -/
theorem syncTick_wf {c : TxEntry} (h : c.wf = true) :
    ({ c with syncCnt := (syncTick c).1 } : TxEntry).wf = true := by
  obtain ⟨tl, sy, cls, nc, ch, el, sc, rq, pr, pv⟩ := c
  simp only [TxEntry.wf, syncTick] at h ⊢
  cases cls <;> simp only at h ⊢ <;> try exact h
  simp only [Bool.and_eq_true, BEq.rfl, if_true, decide_eq_true_eq] at h ⊢
  refine ⟨h.1, ?_⟩
  obtain ⟨-, ⟨⟨h1, h2⟩, h3⟩, h4⟩ := h
  split
  · exact ⟨⟨⟨h1, h2⟩, h1⟩, Nat.le_refl _⟩
  · rename_i hne
    refine ⟨⟨⟨h1, h2⟩, ?_⟩, ?_⟩ <;> simp only <;> bv_omega

/-- One TPDO of the RT step keeps Inv. -/
theorem syncTxIf_inv {j : Nat} {s t : State} (hi : Inv s) (h : syncTxIf j s = .next t) : Inv t := by
  unfold syncTxIf at h
  split at h
  · cases h; exact hi
  · rename_i c hc
    split at h
    · rename_i hs
      unfold syncTx at h
      have h1 : Inv (s.modTx j fun c => { c with syncCnt := (syncTick c).1 }) := by
        refine modTx_inv hi j _ fun c' hc' => ⟨rfl, rfl, fun hw => ?_⟩
        exact syncTick_wf hw
      refine evaluateTx_inv h1 ?_ h
      intro c' hc'
      rw [txEntry_modTx] at hc'
      simp only [if_true, hc, Option.map_some, Option.some.injEq] at hc'
      subst hc'
      simp [hs]
    · cases h; exact hi

/-- One TPDO of PTASK keeps Inv. -/
theorem asyncTxIf_inv {j : Nat} {s t : State} (hi : Inv s) (h : asyncTxIf j s = .next t) : Inv t := by
  unfold asyncTxIf at h
  split at h
  · cases h; exact hi
  · rename_i c hc
    split at h
    · cases h; exact hi
    · rename_i hs
      refine evaluateTx_inv hi ?_ h
      intro c' hc'
      rw [hc] at hc'; cases hc'
      have : c.sync = false := by simpa using hs
      rw [this]; decide

/-- A change of one slot's TXST and TXOK, and of the chain, keeps Inv when it keeps ChainInv. -/
theorem txst_inv {s t : State} (hi : Inv s) {k : Nat} (f : Slot → Slot)
    (ht : t = { s.modSlot k f with chain := t.chain, chainCur := t.chainCur })
    (hf : ∀ sl, f sl = { sl with txst := (f sl).txst, txOk := (f sl).txOk })
    (he : (f (s.slot s.params.emcyS)).txst ≠ .idle → k = s.params.emcyS → (s.slot s.params.emcyS).txst ≠ .idle)
    (hc : ChainInv t) : Inv t := by
  have hsl : ∀ k', t.slot k' = (s.modSlot k f).slot k' := by intro k'; rw [ht]; rfl
  have hr : ∀ i, t.rxEntry i = s.rxEntry i := by intro k'; rw [ht]; rfl
  have hx : ∀ i, t.txEntry i = s.txEntry i := by intro k'; rw [ht]; rfl
  have hp : t.params = s.params := by rw [ht]; rfl
  have g : ∀ k', (t.slot k').len = (s.slot k').len ∧ (t.slot k').id = (s.slot k').id ∧ (t.slot k').data = (s.slot k').data ∧ (t.slot k').new = (s.slot k').new ∧ (t.slot k').ovr = (s.slot k').ovr
     ∧ (t.slot k').rtr = (s.slot k').rtr ∧ (t.slot k').reg = (s.slot k').reg ∧ (t.slot k').rtrReg = (s.slot k').rtrReg ∧ (t.slot k').hpRx = (s.slot k').hpRx ∧ (t.slot k').vhpRx = (s.slot k').vhpRx := by
    intro k'
    rw [hsl, slot_modSlot]
    split
    · rename_i hk; rw [hf, hk.1]; simp
    · simp
  have g2 : (t.slot s.params.emcyS).txst ≠ .idle → (s.slot s.params.emcyS).txst ≠ .idle := by
    rw [hsl, slot_modSlot]
    split
    · rename_i hk; rw [← hk.1]; intro h; exact he h hk.1.symm
    · exact id
  obtain ⟨⟨p, a1, a2, a3, a4, a5, a6, a7, a8, a9⟩, ⟨b1, b2, b3⟩, -, ⟨d1, d2, d3, d4, d5, d6, d7, d8, d9, d10, d11, d12, d13⟩, ⟨e1⟩⟩ := hi
  refine ⟨⟨by rw [hp]; exact p, ?_, ?_, ?_, ?_, ?_, ?_, ?_, ?_, ?_⟩, ⟨?_, ?_, ?_⟩, hc,
    ⟨?_, ?_, ?_, ?_, ?_, ?_, ?_, ?_, ?_, ?_, ?_, ?_, ?_⟩, ⟨?_⟩⟩
  · rw [ht]; simpa using a1
  · rw [ht]; exact a2
  · rw [ht]; exact a3
  · rw [ht]; exact a4
  · rw [ht]; exact a5
  · rw [ht]; exact a6
  · rw [ht]; exact a7
  · rw [hp]; intro k' hk'; rw [(g k').1]; exact a8 k' hk'
  · rw [ht]; exact a9
  · rw [ht]; exact b1
  · rw [ht]; exact b2
  · rw [ht]; exact b3
  · rw [hp]; intro k' hk'; obtain ⟨g1, g2, g3, g4, g5, g6, g7, g8, g9, g10⟩ := g k'; rw [g4, g5]; exact d1 k' hk'
  · rw [hp]; intro k' hk'; obtain ⟨g1, g2, g3, g4, g5, g6, g7, g8, g9, g10⟩ := g k'; rw [g4, g7]; exact d2 k' hk'
  · rw [hp]; intro k' hk'; obtain ⟨g1, g2, g3, g4, g5, g6, g7, g8, g9, g10⟩ := g k'; rw [g6, g8]; exact d3 k' hk'
  · rw [hp]; intro i hi; rw [hr, (g _).2.2.2.2.2.2.1]; exact d4 i hi
  · rw [hp]; intro i hi; rw [hx, (g _).2.2.2.2.2.2.2.1]; exact d5 i hi
  · rw [hp]; intro k' hk'; obtain ⟨g1, g2, g3, g4, g5, g6, g7, g8, g9, g10⟩ := g k'; rw [g7]; exact d6 k' hk'
  · rw [hp]; intro k' hk'; obtain ⟨g1, g2, g3, g4, g5, g6, g7, g8, g9, g10⟩ := g k'; rw [g8]; exact d7 k' hk'
  · rw [hp, (g _).2.2.2.2.2.2.1, d8, ht]; rfl
  · rw [hp]; intro k' hk'; obtain ⟨g1, g2, g3, g4, g5, g6, g7, g8, g9, g10⟩ := g k'; rw [g9, d9 k' hk', ht]; rfl
  · rw [hp]; intro k' hk'; obtain ⟨g1, g2, g3, g4, g5, g6, g7, g8, g9, g10⟩ := g k'; rw [g10]; exact d10 k' hk'
  · rw [ht]; exact d11
  · rw [hp, (g _).2.1]; rw [ht]; exact d12
  · rw [ht]; exact d13
  · rw [hp]; intro h; have := e1 (g2 h); rw [(g _).1, (g _).2.2.1]; exact this

/-- IssueChain (R140) keeps ChainInv. -/
theorem issueChain_chain {s : State} (hsh : ShapeInv s) (h : ChainInv s) : ChainInv s.issueChain := by
  generalize ht : s.issueChain = t
  unfold State.issueChain at ht
  split at ht
  · rename_i j rest hcur hch
    obtain ⟨p, a1, a2, a3, a4, a5, a6, a7, a8, a9⟩ := hsh
    obtain ⟨c1, c2, c3, c4, c5, c6, c7, c8, c9⟩ := h
    rw [hch] at c1 c2 c3 c4
    have hj := c2 j (by simp)
    have hk := slotTx_lt s.params hj.1
    have hsend := slotTx_send s.params hj.1
    have hne := slotTx_ne_emcy s.params hj.1
    have hact : s.active = true := by
      cases ha : s.active with
      | true => rfl
      | false => cases (c1 ha).2.2.1
    have hsl : ∀ k', t.slot k' = if k' = s.params.slotTx j then { s.slot (s.params.slotTx j) with txst := .ready } else s.slot k' := by
      intro k'
      have := slot_modSlot s (s.params.slotTx j) (fun sl => { sl with txst := .ready }) k'
      rw [show t.slot k' = (s.modSlot (s.params.slotTx j) fun sl => { sl with txst := .ready }).slot k' from by rw [← ht]; rfl, this]
      simp [a1, hk]
    have hx : ∀ i, t.txEntry i = s.txEntry i := fun _ => by rw [← ht]; rfl
    have h1 : t.params = s.params := by rw [← ht]; rfl
    have h2 : t.active = s.active := by rw [← ht]; rfl
    have h3 : t.crx = s.crx := by rw [← ht]; rfl
    have h4 : t.ctx = s.ctx := by rw [← ht]; rfl
    have h5 : t.chain = rest := by rw [← ht]
    have h6 : t.chainCur = some j := by rw [← ht]
    clear p ht
    rw [List.nodup_cons] at c3
    have hinj := fun j' => slotTx_inj (p := s.params) (j := j') (k := j)
    refine ⟨?_, ?_, ?_, ?_, ?_, ?_, ?_, ?_, ?_⟩ <;>
      simp only [h1, h2, h3, h4, h5, h6, hsl, hx, Slot.transportOwned] at *
    · intro ha; simp [ha] at hact
    · intro j' hj'
      have := c2 j' (by simp [hj'])
      have : j' ≠ j := by rintro rfl; exact c3.1 hj'
      grind
    · exact c3.2
    · intro j' hj' h
      have := c4 j' hj'
      grind
    · intro j' hj'
      simp only [Option.mem_def, Option.some.injEq] at hj'
      subst hj'
      simp [hj]
    · intro k hk h
      have := c6 k hk
      grind
    · grind
    · intro ha; simp [ha] at hact
    · intro j' hj' h1 h2
      have := c9 j' hj'
      grind
  · rw [← ht]; exact h

/-- IssueChain (R140) keeps Inv. -/
theorem issueChain_inv {s : State} (hi : Inv s) : Inv s.issueChain := by
  have hc := issueChain_chain hi.shape hi.chain
  unfold State.issueChain at hc ⊢
  split at hc
  · rename_i j rest hcur hch
    refine txst_inv hi (fun sl => { sl with txst := .ready }) rfl (fun _ => rfl) ?_ hc
    intro _ he
    exact absurd he (slotTx_ne_emcy s.params (hi.chain.queued j (by simp [hch])).1)
  · exact hi

/-- A loop keeps Inv when its body does. -/
theorem forEach_Inv {body : Nat → State → Result} {is : List Nat}
    (hb : ∀ i s t, Inv s → body i s = .next t → Inv t) {s t : State} (hi : Inv s) (h : forEach body is s = .next t) : Inv t :=
  forEach_inv (P := Inv) (fun i _ u v hu hv => hb i u v hu hv) hi h

theorem finish_inv {s : State} (hi : Inv s) (c : Status) : Inv (s.finish c) :=
  hi.quiet (by constructor <;> rfl) hi.reg.faults

/-- A slot that differs from a reset slot in some way has a number below NSLOT. -/
theorem slot_pred {s : State} (hsh : ShapeInv s) {k : Nat} {P : Slot → Prop} (h : P (s.slot k))
    (hr : ¬ P Slot.reset) : k < s.params.nSlot := by
  rcases Nat.lt_or_ge k s.params.nSlot with hl | hl
  · exact hl
  · rw [slot_of_ge (by rw [hsh.slots]; exact hl)] at h; exact absurd h hr

theorem answer_inv {s : State} (hi : Inv s) (r : Response) : Inv (s.answer r) :=
  hi.quiet (by constructor <;> rfl) hi.reg.faults

theorem inputs_inv {s : State} (hi : Inv s) (xs : List Input) : Inv { s with inputs := xs } :=
  hi.quiet (by constructor <;> rfl) hi.reg.faults

theorem mem_inv {s : State} (hi : Inv s) {m : Memory} (hm : m.wf = true) : Inv { s with mem := m } :=
  ⟨⟨hi.shape.params, hi.shape.slots, hi.shape.defRx, hi.shape.defTx, hi.shape.crx, hi.shape.ctx, hi.shape.rxCnt, hi.shape.txCnt, hi.shape.len, hm⟩,
    ⟨hi.compiled.rx, hi.compiled.tx, hi.compiled.capacity⟩, ⟨hi.chain.inactive, hi.chain.queued, hi.chain.nodup, hi.chain.filling, hi.chain.current, hi.chain.idle, hi.chain.emcy, hi.chain.withdrawn, hi.chain.chained⟩,
    ⟨hi.reg.overrun, hi.reg.received, hi.reg.requested, hi.reg.rxReg, hi.reg.txRtr, hi.reg.regOnly, hi.reg.rtrRegOnly, hi.reg.syncReg, hi.reg.hpRx, hi.reg.vhpRx, hi.reg.installed, hi.reg.syncId, hi.reg.faults⟩, ⟨hi.emcy.frame⟩⟩

/-- A register write other than to CMD keeps Inv. -/
theorem writeReg_inv {s : State} (hi : Inv s) (r : Reg) (v : Word) : Inv (s.writeReg r v) := by
  refine hi.quiet ?_ ?_
  · cases r with
    | core r => cases r <;> constructor <;> rfl
    | rxDef i r => constructor <;> first | rfl | simp [State.writeReg]
    | txDef i r => constructor <;> first | rfl | simp [State.writeReg]
    | window k r => constructor <;> rfl
  · have := hi.reg.faults
    cases r with
    | core r => cases r <;> exact this
    | rxDef i r => exact this
    | txDef i r => exact this
    | window k r => exact this

/-- EV_TAKE (R200) keeps ChainInv. -/
theorem evTake_chain {s : State} (hsh : ShapeInv s) (h : ChainInv s) {k : Nat}
    (he : (s.slot k).txst = .ready) : ChainInv (evTake k s) := by
  have hsl : ∀ k', ((evTake k s).slot k').txst = if k' = k then .sending else (s.slot k').txst := by
    intro k'
    have hk := slot_pred hsh (P := fun sl => sl.txst = .ready) he (by decide)
    simp only [evTake, slot_modSlot]
    simp [hsh.slots, hk]
    split <;> rfl
  have hx : ∀ i, (evTake k s).txEntry i = s.txEntry i := fun _ => rfl
  obtain ⟨c1, c2, c3, c4, c5, c6, c7, c8, c9⟩ := h
  have h1 : (evTake k s).params = s.params := rfl
  have h2 : (evTake k s).active = s.active := rfl
  have h3 : (evTake k s).crx = s.crx := rfl
  have h4 : (evTake k s).ctx = s.ctx := rfl
  have h5 : (evTake k s).chain = s.chain := rfl
  have h6 : (evTake k s).chainCur = s.chainCur := rfl
  generalize evTake k s = t at *
  constructor <;> simp only [h1, h2, h3, h4, h5, h6, hsl, hx, Slot.transportOwned] at *
  · exact c1
  · intro j hj; have := c2 j hj; grind
  · exact c3
  · intro j hj; have := c4 j hj; grind
  · intro j hj; have := c5 j hj; grind
  · intro j hj; have := c6 j hj; grind
  · grind
  · intro ha j hj; have := c8 ha j hj; grind
  · intro j hj; have := c9 j hj; grind

/-- EV_DONE (R201), before the next frame is issued, keeps ChainInv. -/
theorem evDone_chain {s : State} (hsh : ShapeInv s) (h : ChainInv s) {k : Nat} (ok : Bool)
    (he : (s.slot k).txst = .sending) :
    ChainInv { (s.modSlot k fun sl => { sl with txst := .idle, txOk := ok }) with
      chainCur := if s.chainCur.map s.params.slotTx = some k then none else s.chainCur } := by
  generalize ht : ({ (s.modSlot k fun sl => { sl with txst := .idle, txOk := ok }) with
      chainCur := if s.chainCur.map s.params.slotTx = some k then none else s.chainCur } : State) = t
  have hsl : ∀ k', (t.slot k').txst = if k' = k then .idle else (s.slot k').txst := by
    intro k'
    have hk := slot_pred hsh (P := fun sl => sl.txst = .sending) he (by decide)
    have : t.slot k' = (s.modSlot k fun sl => { sl with txst := .idle, txOk := ok }).slot k' := by rw [← ht]; rfl
    simp only [this, slot_modSlot]
    simp [hsh.slots, hk]
    split <;> rfl
  have hx : ∀ i, t.txEntry i = s.txEntry i := fun _ => by rw [← ht]; rfl
  obtain ⟨c1, c2, c3, c4, c5, c6, c7, c8, c9⟩ := h
  have h1 : t.params = s.params := by rw [← ht]; rfl
  have h2 : t.active = s.active := by rw [← ht]; rfl
  have h3 : t.crx = s.crx := by rw [← ht]; rfl
  have h4 : t.ctx = s.ctx := by rw [← ht]; rfl
  have h5 : t.chain = s.chain := by rw [← ht]; rfl
  have h6 : t.chainCur = if s.chainCur.map s.params.slotTx = some k then none else s.chainCur := by rw [← ht]
  clear ht
  constructor <;> simp only [h1, h2, h3, h4, h5, h6, hsl, hx, Slot.transportOwned] at *
  · intro ha; have := c1 ha; grind
  · intro j hj; have := c2 j hj; grind
  · exact c3
  · intro j hj; have := c4 j hj; grind
  · intro j hj; have := c5 j; grind
  · intro j hj; have := c6 j hj; grind
  · grind
  · intro ha j hj; have := c8 ha j hj; grind
  · intro j hj; have := c9 j hj; grind

/-- EV_DONE as one update and, for the current chained frame, IssueChain (R141, R201). -/
theorem advance_eq (s : State) (k : Nat) (ok : Bool) :
    evDone k ok s = if s.chainCur.map s.params.slotTx = some k then
     State.issueChain { (s.modSlot k fun sl => { sl with txst := .idle, txOk := ok }) with
      chainCur := if s.chainCur.map s.params.slotTx = some k then none else s.chainCur } else 
      { (s.modSlot k fun sl => { sl with txst := .idle, txOk := ok }) with
      chainCur := if s.chainCur.map s.params.slotTx = some k then none else s.chainCur } := by
  unfold evDone State.advanceChain
  rw [modSlot_chainCur, modSlot_params]
  cases h : s.chainCur with
  | none => simp [h, State.modSlot]
  | some j =>
    by_cases hk : k = s.params.slotTx j
    · simp [hk]
    · simp [hk, Ne.symm hk, State.modSlot, h]

/-- The last byte of an EMCY frame is 0 (R151). -/
theorem emcyFrame_last (d : FrameBuf) (c : BitVec 16) (e : Byte) (m : Word) : byteAt
    (emcyFrame d c e m) 7 = 0 := by
  unfold emcyFrame
  have := byteAt_putBits (putBits (putBits (putBits d 0 16 (c.setWidth 64)) 16 8 (e.setWidth 64)) 24 32 (m.setWidth 64)) 7 1 0 7 (by omega)
  simp only [Nat.reduceMul] at this
  rw [this]
  simp [byteAt]

theorem emcyS_lt (p : Params) : p.emcyS < p.nSlot := by simp [Params.emcyS, Params.nSlot]

theorem emcyS_send (p : Params) : p.isSendSlot p.emcyS = true := by simp [Params.isSendSlot]

/-- ComposeEmcy (R151) keeps Inv. -/
theorem composeEmcy_inv {s : State} (hi : Inv s) (_hid : (s.slot s.params.emcyS).txst = .idle) :
    Inv s.composeEmcy := by
  have hk := emcyS_lt s.params
  have hsend := emcyS_send s.params
  have hsy : s.params.emcyS ≠ s.params.syncS := by simp [Params.syncS]
  have htx : ∀ j < s.params.nTpdo, s.params.slotTx j ≠ s.params.emcyS := fun j hj => slotTx_ne_emcy s.params hj
  obtain ⟨⟨p, a1, a2, a3, a4, a5, a6, a7, a8, a9⟩, ⟨b1, b2, b3⟩, ⟨c1, c2, c3, c4, c5, c6, c7, c8, c9⟩, ⟨d1, d2, d3, d4, d5, d6, d7, d8, d9, d10, d11, d12, d13⟩, ⟨e1⟩⟩ := hi
  have hrx : ∀ i < s.params.nRpdo, s.params.slotRx i ≠ s.params.emcyS := by intro i hi; simp only [Params.slotRx, Params.emcyS]; omega
  have hl := emcyFrame_last (s.slot s.params.emcyS).data s.emcyCode s.emcyErrReg s.emcyMfr
  unfold State.composeEmcy
  have hsl : ∀ k', (s.modSlot s.params.emcyS fun sl =>
    { sl with
      id := cobId s.emcyCobId, len := 8, inht := s.emcyInh,
      data := emcyFrame sl.data s.emcyCode s.emcyErrReg s.emcyMfr,
      txOk := false, txst := .ready }).slot k' = if k' = s.params.emcyS then { s.slot s.params.emcyS with
      id := cobId s.emcyCobId, len := 8, inht := s.emcyInh,
      data := emcyFrame (s.slot s.params.emcyS).data s.emcyCode s.emcyErrReg s.emcyMfr,
      txOk := false, txst := .ready } else s.slot k' := by
    intro k'; rw [slot_modSlot]; simp [a1, hk]
  refine ⟨⟨p, by simpa using a1, a2, a3, a4, a5, a6, a7, ?_, a9⟩, ⟨b1, b2, b3⟩, ?_, ?_, ⟨?_⟩⟩
  · clear p
    intro k' hk'
    rw [hsl]
    have := a8 k' hk'
    grind
  · clear p d1 d2 d3 d4 d5 d6 d7 d8 d9 d10 d11 d12 d13 e1 a8
    constructor <;> simp only [hsl, Slot.transportOwned, modSlot_params, modSlot_active, modSlot_chain, modSlot_chainCur, modSlot_ctx, modSlot_crx, txEntry_modSlot] at *
    · exact c1
    · intro j hj; have := c2 j hj; grind
    · exact c3
    · intro j hj; have := c4 j hj; grind
    · intro j hj; have := c5 j hj; grind
    · intro j hj; have := c6 j hj; grind
    · grind
    · intro ha j hj; have := c8 ha j hj; grind
    · intro j hj; have := c9 j hj; grind
  · clear p c1 c2 c3 c4 c5 c6 c7 c8 c9 e1 a8
    constructor <;> simp only [hsl, modSlot_params, modSlot_syncInstalled, modSlot_validIn, modSlot_syncCobId, modSlot_fault,
    modSlot_faultNew, txEntry_modSlot, rxEntry_modSlot]
    · intro k hk'; have := d1 k hk'; grind
    · intro k hk'; have := d2 k hk'; grind
    · intro k hk'; have := d3 k hk'; grind
    · intro k hk'; have := d4 k hk'; have := hrx k hk'; grind
    · intro k hk'; have := d5 k hk'; have := htx k hk'; grind
    · intro k hk'; have := d6 k hk'; grind
    · intro k hk'; have := d7 k hk'; grind
    · grind
    · intro k hk'; have := d9 k hk'; grind
    · intro k hk'; have := d10 k hk'; grind
    · exact d11
    · grind
    · exact d13
  · rw [modSlot_params, hsl]; intro _; simpa using hl

/-- The end of an EMCY update keeps Inv. -/
theorem emcySend_inv {s : State} (hi : Inv s) (hb : s.emcyBlocked = false) : Inv s.emcySend := by
  unfold State.emcySend
  split
  · exact finish_inv hi _
  · rename_i hv
    refine finish_inv (composeEmcy_inv hi ?_) _
    simp only [State.emcyBlocked, State.gateOpen] at hb
    grind

/-- A fault latch keeps Inv. -/
theorem latch_inv {s : State} (hi : Inv s) (b : FaultBit) : Inv (s.latch b) :=
  hi.quiet (by constructor <;> simp) (latch_faults b hi.reg.faults)

/-- Install (R163) restores the part of Inv that ties the SYNC slot to its validity and COB-ID. -/
theorem install_inv {s : State} (hi : Inv s) (id : Word) (v : Bool) : Inv
    (State.install { s with syncCobId := id, validIn := v }) := by
  have hk : s.params.syncS < s.params.nSlot := by simp [Params.syncS, Params.emcyS, Params.nSlot]
  have hes : s.params.emcyS ≠ s.params.syncS := by simp [Params.syncS]
  have htx : ∀ j < s.params.nTpdo, s.params.slotTx j ≠ s.params.syncS := by intro j hj; simp [Params.slotTx, Params.syncS, Params.emcyS]; omega
  have hrx : ∀ i < s.params.nRpdo, s.params.slotRx i ≠ s.params.syncS := by intro i hi; simp only [Params.slotRx, Params.syncS, Params.emcyS]; omega
  have hin : (v && !cobInvalid id) = ({ s with syncCobId := id, validIn := v } : State).install.syncInstalled := by
    unfold State.install; split <;> simp_all
  generalize ht : State.install { s with syncCobId := id, validIn := v } = t at *
  have hsl : ∀ k', t.slot k' = if k' = s.params.syncS then (if v && !cobInvalid id then installSlot (!s.syncInstalled) (cobId id) (s.slot s.params.syncS) else removeSlot (s.slot s.params.syncS)) else s.slot k' := by
    intro k'
    have h1 := slot_modSlot { s with syncCobId := id, validIn := v } s.params.syncS
    rw [← ht]
    unfold State.install
    split
    · rename_i hh
      simp only at hh
      rw [show ∀ u : State, ({ u with syncInstalled := true } : State).slot k' = u.slot k' from fun _ => rfl, h1]
      simp [hi.shape.slots, hk]
      rfl
    · rename_i hh
      simp only at hh
      rw [show ∀ u : State, ({ u with syncInstalled := false } : State).slot k' = u.slot k' from fun _ => rfl, h1]
      simp [hi.shape.slots, hk]
      rfl
  have g : ∀ k', (t.slot k').txst = (s.slot k').txst ∧ (t.slot k').rtr = (s.slot k').rtr ∧ (t.slot k').rtrReg = (s.slot k').rtrReg ∧ (t.slot k').vhpRx = (s.slot k').vhpRx := by
    intro k'
    rw [hsl]
    unfold installSlot removeSlot
    grind
  have hx : ∀ i, t.txEntry i = s.txEntry i := by intro i; rw [← ht]; unfold State.install; split <;> rfl
  have hr : ∀ i, t.rxEntry i = s.rxEntry i := by intro i; rw [← ht]; unfold State.install; split <;> rfl
  have h1 : t.params = s.params := by rw [← ht]; unfold State.install; split <;> rfl
  have h2 : t.active = s.active := by rw [← ht]; unfold State.install; split <;> rfl
  have h3 : t.crx = s.crx := by rw [← ht]; unfold State.install; split <;> rfl
  have h4 : t.ctx = s.ctx := by rw [← ht]; unfold State.install; split <;> rfl
  have h5 : t.chain = s.chain := by rw [← ht]; unfold State.install; split <;> rfl
  have h6 : t.chainCur = s.chainCur := by rw [← ht]; unfold State.install; split <;> rfl
  have h7 : t.slots.length = s.slots.length := by rw [← ht]; unfold State.install; split <;> simp
  have h8 : t.defRx = s.defRx := by rw [← ht]; unfold State.install; split <;> rfl
  have h9 : t.defTx = s.defTx := by rw [← ht]; unfold State.install; split <;> rfl
  have h10 : t.rxCnt = s.rxCnt := by rw [← ht]; unfold State.install; split <;> rfl
  have h11 : t.txCnt = s.txCnt := by rw [← ht]; unfold State.install; split <;> rfl
  have h12 : t.mem = s.mem := by rw [← ht]; unfold State.install; split <;> rfl
  have h13 : t.fault = s.fault := by rw [← ht]; unfold State.install; split <;> rfl
  have h14 : t.faultNew = s.faultNew := by rw [← ht]; unfold State.install; split <;> rfl
  have h15 : t.validIn = v := by rw [← ht]; unfold State.install; split <;> rfl
  have h16 : t.syncCobId = id := by rw [← ht]; unfold State.install; split <;> rfl
  obtain ⟨⟨p, a1, a2, a3, a4, a5, a6, a7, a8, a9⟩, ⟨b1, b2, b3⟩, ⟨c1, c2, c3, c4, c5, c6, c7, c8, c9⟩, ⟨d1, d2, d3, d4, d5, d6, d7, d8, d9, d10, d11, d12, d13⟩, ⟨e1⟩⟩ := hi
  clear ht
  refine ⟨⟨by rw [h1]; exact p, ?_, ?_, ?_, ?_, ?_, ?_, ?_, ?_, ?_⟩, ⟨?_, ?_, ?_⟩, ⟨?_, ?_, ?_, ?_, ?_, ?_, ?_, ?_, ?_⟩, ?_, ⟨?_⟩⟩ <;> clear p
  · rw [h7, h1]; exact a1
  · rw [h8, h1]; exact a2
  · rw [h9, h1]; exact a3
  · rw [h3, h1]; exact a4
  · rw [h4, h1]; exact a5
  · rw [h10, h1]; exact a6
  · rw [h11, h1]; exact a7
  · rw [h1]; intro k hk; rw [hsl]; have := a8 k hk; unfold installSlot removeSlot; grind
  · rw [h12]; exact a9
  · rw [h3]; exact b1
  · rw [h4]; exact b2
  · unfold State.elemCount; rw [h3, h4, h1]; exact b3
  all_goals try simp only [h1, h2, h3, h4, h5, h6, g, hx, Slot.transportOwned]; assumption
  · constructor <;> simp only [h1, hx, hr, g, h13, h14, ← hin, h15, h16] <;> try assumption
    · intro k hk; have := d1 k hk; rw [hsl]; unfold installSlot removeSlot; grind
    · intro k hk; have := d2 k hk; rw [hsl]; unfold installSlot removeSlot; grind
    · intro i hi; have := d4 i hi; rw [hsl]; have := hrx i hi; grind
    · intro k hk; have := d6 k hk; rw [hsl]; unfold installSlot removeSlot; grind
    · rw [hsl]; unfold installSlot removeSlot; grind
    · intro k hk; have := d9 k hk; rw [hsl]; unfold installSlot removeSlot; grind
    · intro h; rw [hsl]; unfold installSlot; grind
  · rw [h1, hsl, if_neg hes]; exact e1

/-- A slot after a pass over all slots. -/
theorem slot_mapIdx {s t : State} {f : Nat → Slot → Slot} (h : t.slots = s.slots.mapIdx f) {k : Nat}
    (hk : k < s.slots.length) : t.slot k = f k (s.slot k) := by
  simp [slot_eq, h, hk]

/-- The release of the set (R116) keeps Inv. -/
theorem destroy_inv {s : State} (hi : Inv s) : Inv s.destroySet := by
  generalize ht : s.destroySet = t
  have hlen : s.slots.length = s.params.nSlot := hi.shape.slots
  have hslots : t.slots = s.slots.mapIdx fun k sl =>
      if k < s.params.nRpdo then destroyRxSlot sl
      else if s.params.isTxSlot k then destroyTxSlot sl
      else sl := by rw [← ht]; rfl
  have hsl : ∀ k < s.params.nSlot, t.slot k = if k < s.params.nRpdo then destroyRxSlot (s.slot k)
      else if s.params.isTxSlot k then destroyTxSlot (s.slot k)
      else s.slot k := fun k hk => slot_mapIdx hslots (by omega)
  have h1 : t.params = s.params := by rw [← ht]; rfl
  have h2 : t.active = false := by rw [← ht]; rfl
  have h3 : t.crx = s.crx.map fun _ => none := by rw [← ht]; rfl
  have h4 : t.ctx = s.ctx.map fun _ => none := by rw [← ht]; rfl
  have h5 : t.chain = [] := by rw [← ht]; rfl
  have h6 : t.chainCur = none := by rw [← ht]; rfl
  have h8 : t.defRx = s.defRx := by rw [← ht]; rfl
  have h9 : t.defTx = s.defTx := by rw [← ht]; rfl
  have h10 : t.rxCnt = s.rxCnt := by rw [← ht]; rfl
  have h11 : t.txCnt = s.txCnt := by rw [← ht]; rfl
  have h12 : t.mem = s.mem := by rw [← ht]; rfl
  have h13 : t.fault = s.fault := by rw [← ht]; rfl
  have h14 : t.faultNew = s.faultNew := by rw [← ht]; rfl
  have h15 : t.validIn = s.validIn := by rw [← ht]; rfl
  have h16 : t.syncCobId = s.syncCobId := by rw [← ht]; rfl
  have h17 : t.syncInstalled = s.syncInstalled := by rw [← ht]; rfl
  have hx : ∀ j, t.txEntry j = none := by intro j; rw [txEntry_eq, h4, List.getElem?_map]; cases s.ctx[j]? <;> rfl
  have hr : ∀ j, t.rxEntry j = none := by intro j; rw [rxEntry_eq, h3, List.getElem?_map]; cases s.crx[j]? <;> rfl
  have g : ∀ k < s.params.nSlot, (t.slot k).len = (s.slot k).len ∧ (t.slot k).id = (s.slot k).id ∧ (t.slot k).data = (s.slot k).data ∧ (t.slot k).hpRx = (s.slot k).hpRx ∧ (t.slot k).vhpRx = (s.slot k).vhpRx := by
    intro k hk; rw [hsl k hk]; unfold destroyRxSlot destroyTxSlot; split <;> try split
    all_goals simp
  have hemcy := emcyS_lt s.params
  have hsy : s.params.syncS < s.params.nSlot := by simp [Params.syncS, Params.emcyS, Params.nSlot]
  have hslE : t.slot s.params.emcyS = s.slot s.params.emcyS := by
    rw [hsl _ hemcy, if_neg (by simp only [Params.emcyS]; omega), if_neg (by simp only [Params.emcyS, Params.isTxSlot]; simp)]
  have hslS : t.slot s.params.syncS = s.slot s.params.syncS := by
    rw [hsl _ hsy, if_neg (by simp only [Params.emcyS, Params.syncS]; omega), if_neg (by simp only [Params.emcyS, Params.syncS, Params.isTxSlot]; simp)]
  have htxs : ∀ j < s.params.nTpdo, t.slot (s.params.slotTx j) = destroyTxSlot (s.slot (s.params.slotTx j)) := by
    intro j hj
    rw [hsl _ (slotTx_lt _ hj), if_neg (by simp only [Params.slotTx]; omega), if_pos (by simp [Params.slotTx, Params.isTxSlot, hj])]
  have hrxs : ∀ j < s.params.nRpdo, t.slot (s.params.slotRx j) = destroyRxSlot (s.slot (s.params.slotRx j)) := by
    intro j hj
    rw [hsl _ (by simp only [Params.slotRx, Params.nSlot]; omega), if_pos (by simpa only [Params.slotRx] using hj)]
  obtain ⟨⟨p, a1, a2, a3, a4, a5, a6, a7, a8, a9⟩, ⟨b1, b2, b3⟩, ⟨c1, c2, c3, c4, c5, c6, c7, c8, c9⟩, ⟨d1, d2, d3, d4, d5, d6, d7, d8, d9, d10, d11, d12, d13⟩, ⟨e1⟩⟩ := hi
  clear ht
  refine ⟨⟨by rw [h1]; exact p, ?_, ?_, ?_, ?_, ?_, ?_, ?_, ?_, ?_⟩, ⟨?_, ?_, ?_⟩, ?_, ?_, ⟨?_⟩⟩ <;> clear p
  · rw [hslots, h1]; simpa using a1
  · rw [h8, h1]; exact a2
  · rw [h9, h1]; exact a3
  · rw [h3, h1]; simpa using a4
  · rw [h4, h1]; simpa using a5
  · rw [h10, h1]; exact a6
  · rw [h11, h1]; exact a7
  · rw [h1]; intro k hk; rw [(g k hk).1]; exact a8 k hk
  · rw [h12]; exact a9
  · rw [h3]; intro c hc; obtain ⟨_, _, rfl⟩ := List.mem_map.1 hc; simp
  · rw [h4]; intro c hc; obtain ⟨_, _, rfl⟩ := List.mem_map.1 hc; simp
  · unfold State.elemCount; rw [h3, h4]; simp
  · constructor <;> simp only [h1, h2, h3, h4, h5, h6, hx, hslE]
    · simp
    · simp
    · simp
    · intro j hj; rw [htxs j hj]; unfold destroyTxSlot; cases hh : (s.slot (s.params.slotTx j)).txst <;> simp
    · simp
    · intro k hk; have := c6 k hk; rw [hsl k hk]; unfold destroyRxSlot destroyTxSlot; split <;> try split
      all_goals try exact this
      intro h; apply this; intro hh; rw [hh] at h; simp at h
    · exact c7
    · intro _ j hj; rw [htxs j hj]; unfold destroyTxSlot; cases hh : (s.slot (s.params.slotTx j)).txst <;> simp
    · simp
  · constructor <;> simp only [h1, hx, hr, h13, h14, h15, h16, h17, hslS]
    · intro k hk; have := d1 k hk; rw [hsl k hk]; unfold destroyRxSlot destroyTxSlot; grind
    · intro k hk; have := d2 k hk; rw [hsl k hk]; unfold destroyRxSlot destroyTxSlot; grind
    · intro k hk; have := d3 k hk; rw [hsl k hk]; unfold destroyRxSlot destroyTxSlot; grind
    · intro k hk; rw [hrxs k hk]; unfold destroyRxSlot; simp
    · intro k hk; rw [htxs k hk]; unfold destroyTxSlot; simp
    · intro k hk; have := d6 k hk; rw [hsl k hk]; unfold destroyRxSlot destroyTxSlot; grind
    · intro k hk; have := d7 k hk; rw [hsl k hk]; unfold destroyRxSlot destroyTxSlot; grind
    · exact d8
    · intro k hk; rw [(g k hk).2.2.2.1]; exact d9 k hk
    · intro k hk; rw [(g k hk).2.2.2.2]; exact d10 k hk
    · exact d11
    · exact d12
    · exact d13
  · rw [h1, hslE]; exact e1

/-- Commit (R115) of a compiled set keeps Inv. -/
theorem commit_inv {s : State} (hi : Inv s) (hact : s.active = false) (hsend : s.someTxSending = false)
    {st : Staged} (hst : compileSet s.params s.defRx s.defTx = .ok st) : Inv (s.commit st) := by
  obtain ⟨k1, k2, k3, k4, k5⟩ := compileSet_ok hst
  generalize ht : s.commit st = t
  have hlen : s.slots.length = s.params.nSlot := hi.shape.slots
  have hslots : t.slots = s.slots.mapIdx fun k sl =>
      if k < s.params.nRpdo then commitRxSlot (s.rxDef k) (st.rx.getD k none) sl
      else if s.params.isTxSlot k then
        commitTxSlot (s.txDef (k - s.params.nRpdo)) (st.tx.getD (k - s.params.nRpdo) none) sl
      else sl := by rw [← ht]; rfl
  have hsl : ∀ k < s.params.nSlot, t.slot k = if k < s.params.nRpdo then commitRxSlot (s.rxDef k) (st.rx.getD k none) (s.slot k)
      else if s.params.isTxSlot k then
        commitTxSlot (s.txDef (k - s.params.nRpdo)) (st.tx.getD (k - s.params.nRpdo) none) (s.slot k)
      else s.slot k := fun k hk => slot_mapIdx hslots (by omega)
  have h1 : t.params = s.params := by rw [← ht]; rfl
  have h2 : t.active = true := by rw [← ht]; rfl
  have h3 : t.crx = st.rx := by rw [← ht]; rfl
  have h4 : t.ctx = st.tx := by rw [← ht]; rfl
  have h5 : t.chain = [] := by rw [← ht]; rfl
  have h6 : t.chainCur = none := by rw [← ht]; rfl
  have h8 : t.defRx = s.defRx := by rw [← ht]; rfl
  have h9 : t.defTx = s.defTx := by rw [← ht]; rfl
  have h10 : t.rxCnt.length = s.rxCnt.length := by rw [← ht]; simp [State.commit]
  have h11 : t.txCnt.length = s.txCnt.length := by rw [← ht]; simp [State.commit]
  have h12 : t.mem = s.mem := by rw [← ht]; rfl
  have h13 : t.fault = s.fault := by rw [← ht]; rfl
  have h14 : t.faultNew = s.faultNew := by rw [← ht]; rfl
  have h15 : t.validIn = s.validIn := by rw [← ht]; rfl
  have h16 : t.syncCobId = s.syncCobId := by rw [← ht]; rfl
  have h17 : t.syncInstalled = s.syncInstalled := by rw [← ht]; rfl
  have hx : ∀ j, t.txEntry j = st.tx.getD j none := by intro j; unfold State.txEntry; rw [h4]
  have hr : ∀ j, t.rxEntry j = st.rx.getD j none := by intro j; unfold State.rxEntry; rw [h3]
  have g : ∀ k < s.params.nSlot, (t.slot k).txst = (s.slot k).txst ∧ (t.slot k).hpRx = (if k < s.params.nRpdo then false else (s.slot k).hpRx) ∧ (t.slot k).vhpRx = (s.slot k).vhpRx := by
    intro k hk; rw [hsl k hk]; unfold commitRxSlot commitTxSlot; split <;> try split
    all_goals try split
    all_goals simp
  have hemcy := emcyS_lt s.params
  have hsy : s.params.syncS < s.params.nSlot := by simp [Params.syncS, Params.emcyS, Params.nSlot]
  have hslE : t.slot s.params.emcyS = s.slot s.params.emcyS := by
    rw [hsl _ hemcy, if_neg (by simp only [Params.emcyS]; omega), if_neg (by simp only [Params.emcyS, Params.isTxSlot]; simp)]
  have hslS : t.slot s.params.syncS = s.slot s.params.syncS := by
    rw [hsl _ hsy, if_neg (by simp only [Params.emcyS, Params.syncS]; omega), if_neg (by simp only [Params.emcyS, Params.syncS, Params.isTxSlot]; simp)]
  have htxs : ∀ j < s.params.nTpdo, t.slot (s.params.slotTx j) = commitTxSlot (s.txDef j) (st.tx.getD j none) (s.slot (s.params.slotTx j)) := by
    intro j hj
    rw [hsl _ (slotTx_lt _ hj), if_neg (by simp only [Params.slotTx]; omega), if_pos (by simp [Params.slotTx, Params.isTxSlot, hj])]
    simp [Params.slotTx]
  have hrxs : ∀ j < s.params.nRpdo, t.slot (s.params.slotRx j) = commitRxSlot (s.rxDef j) (st.rx.getD j none) (s.slot (s.params.slotRx j)) := by
    intro j hj
    rw [hsl _ (by simp only [Params.slotRx, Params.nSlot]; omega), if_pos (by simpa only [Params.slotRx] using hj)]
    rfl
  have hnl : ∀ j < s.params.nTpdo, (s.slot (s.params.slotTx j)).txst = .idle := by
    intro j hj
    cases hh : (s.slot (s.params.slotTx j)).txst with
    | idle => rfl
    | filling => have := hi.chain.filling j hj hh; rw [(hi.chain.inactive hact).2.2.1] at this; cases this
    | ready => exact absurd hh (hi.chain.withdrawn hact j hj)
    | sending =>
      simp only [State.someTxSending, List.any_eq_false, List.mem_range, beq_iff_eq] at hsend
      exact absurd hh (hsend j hj)
  obtain ⟨⟨p, a1, a2, a3, a4, a5, a6, a7, a8, a9⟩, ⟨b1, b2, b3⟩, ⟨c1, c2, c3, c4, c5, c6, c7, c8, c9⟩, ⟨d1, d2, d3, d4, d5, d6, d7, d8, d9, d10, d11, d12, d13⟩, ⟨e1⟩⟩ := hi
  clear ht
  have hwf : ∀ (o : Option TxEntry) j, st.tx.getD j none = o → ∀ c ∈ o, c.totLen ≤ 8 := by
    intro o j ho c hc
    cases hc
    have hm : some c ∈ st.tx := by
      rw [List.getD_eq_getElem?_getD] at ho
      cases hh : st.tx[j]? with
      | none => rw [hh] at ho; cases ho
      | some o' => rw [hh] at ho; simp only [Option.getD_some] at ho; subst ho; exact List.mem_of_getElem? hh
    exact TxEntry.wf_of_elems (k4 _ hm c rfl)
  refine ⟨⟨by rw [h1]; exact p, ?_, ?_, ?_, ?_, ?_, ?_, ?_, ?_, ?_⟩, ⟨?_, ?_, ?_⟩, ?_, ?_, ⟨?_⟩⟩ <;> clear p
  · rw [hslots, h1]; simpa using a1
  · rw [h8, h1]; exact a2
  · rw [h9, h1]; exact a3
  · rw [h3, h1]; omega
  · rw [h4, h1]; omega
  · rw [h10, h1]; exact a6
  · rw [h11, h1]; exact a7
  · rw [h1]; intro k hk; have := a8 k hk; rw [hsl k hk]; unfold commitRxSlot commitTxSlot
    split
    · exact this
    · split
      · split
        · rename_i c hc; exact hwf _ _ hc c rfl
        · exact this
      · exact this
  · rw [h12]; exact a9
  · rw [h3]; exact k3
  · rw [h4]; exact k4
  · unfold State.elemCount; rw [h3, h4, h1]; exact k5
  · constructor <;> simp only [h1, h2, h3, h4, h5, h6, hx, hslE]
    · simp
    · simp
    · simp
    · intro j hj; rw [(g _ (slotTx_lt _ hj)).1, hnl j hj]; simp
    · simp
    · intro k hk; rw [(g k hk).1]; exact c6 k hk
    · exact c7
    · simp
    · intro j hj; unfold Slot.transportOwned; rw [(g _ (slotTx_lt _ hj)).1, hnl j hj]; intro h; cases h
  · constructor <;> simp only [h1, hx, hr, h13, h14, h15, h16, h17, hslS]
    · intro k hk; have := d1 k hk; rw [hsl k hk]; unfold commitRxSlot commitTxSlot; grind
    · intro k hk; have := d2 k hk; rw [hsl k hk]; unfold commitRxSlot commitTxSlot; grind
    · intro k hk; have := d3 k hk; rw [hsl k hk]; unfold commitRxSlot commitTxSlot; grind
    · intro k hk; rw [hrxs k hk]; unfold commitRxSlot; simp
    · intro k hk; rw [htxs k hk]; unfold commitTxSlot; grind
    · intro k hk; have := d6 k hk; rw [hsl k hk]; unfold commitRxSlot commitTxSlot; grind
    · intro k hk; have := d7 k hk; rw [hsl k hk]; unfold commitRxSlot commitTxSlot; grind
    · exact d8
    · intro k hk; rw [(g k hk).2.1]; have := d9 k hk; simp only [Params.syncS, Params.emcyS] at this ⊢; grind
    · intro k hk; rw [(g k hk).2.2]; exact d10 k hk
    · exact d11
    · exact d12
    · exact d13
  · rw [h1, hslE]; exact e1

end Sys2Proof.Machine
end

