-- ==== Sys2Proof/Laws/PerInstr.lean ====
section
/-! SUPPORT. Laws/PerInstr: what holds of each command as syntax, one lemma per constructor of Instr. -/

namespace Sys2Proof.Laws.Opcode

/-- R78, R81: the low byte of a well-formed command's word is its row's OP, and the word is a sum of OP and
the operand fields that no carry disturbs. -/
def Statement (i : Instr) : Prop :=
  i.wellFormed = true → opField (encode i) = opcodeOf i ∧ (encode i).toNat = opcodeOf i + operandBits i

theorem of_bits {i : Instr} (ho : opcodeOf i < 256) (hm : operandBits i % 256 = 0)
    (hb : opcodeOf i + operandBits i < 2 ^ 32) :
    opField (encode i) = opcodeOf i ∧ (encode i).toNat = opcodeOf i + operandBits i := by
  simp only [opField, wordField, encode, BitVec.extractLsb'_toNat, BitVec.toNat_ofNat, Nat.shiftRight_zero]
  omega

theorem nop : Statement .nop := fun _ => of_bits (by decide) (by decide) (by decide)

theorem fget (slot boff blen : Nat) : Statement (.fget slot boff blen) := by
  intro h
  simp only [Instr.wellFormed, idxFits, boffFits, blenFits, Bool.and_eq_true, decide_eq_true_eq] at h
  refine of_bits ?_ ?_ ?_ <;> simp only [opcodeOf, operandBits] <;> omega

theorem fput (slot boff blen : Nat) : Statement (.fput slot boff blen) := by
  intro h
  simp only [Instr.wellFormed, idxFits, boffFits, blenFits, Bool.and_eq_true, decide_eq_true_eq] at h
  refine of_bits ?_ ?_ ?_ <;> simp only [opcodeOf, operandBits] <;> omega

theorem pcreate : Statement .pcreate := fun _ => of_bits (by decide) (by decide) (by decide)

theorem pdestroy : Statement .pdestroy := fun _ => of_bits (by decide) (by decide) (by decide)

theorem ptxreq (tpdo : Nat) : Statement (.ptxreq tpdo) := by
  intro h
  simp only [Instr.wellFormed, idxFits, decide_eq_true_eq] at h
  refine of_bits ?_ ?_ ?_ <;> simp only [opcodeOf, operandBits] <;> omega

theorem ptask : Statement .ptask := fun _ => of_bits (by decide) (by decide) (by decide)

theorem ealarm (code : BitVec 16) : Statement (.ealarm code) := by
  intro _
  have := code.isLt
  refine of_bits ?_ ?_ ?_ <;> simp only [opcodeOf, operandBits] <;> omega

theorem eclear : Statement .eclear := fun _ => of_bits (by decide) (by decide) (by decide)

theorem eforce : Statement .eforce := fun _ => of_bits (by decide) (by decide) (by decide)

theorem ecobid : Statement .ecobid := fun _ => of_bits (by decide) (by decide) (by decide)

theorem scobid : Statement .scobid := fun _ => of_bits (by decide) (by decide) (by decide)

theorem svalid : Statement .svalid := fun _ => of_bits (by decide) (by decide) (by decide)

theorem fack : Statement .fack := fun _ => of_bits (by decide) (by decide) (by decide)

theorem fclr : Statement .fclr := fun _ => of_bits (by decide) (by decide) (by decide)

end Sys2Proof.Laws.Opcode
end

