-- ==== Sys2Proof/Tests/Slice0.lean ====
section
/-! SUPPORT. Tests/Slice0: the WellFormed smoke test, each command's decoding from a word written out from
30_encoding.md R78 and R81, one-step tests whose expected values are those of 95_test_vectors.md (named in each
docstring), and for every statement with hypotheses a state that meets them. -/

namespace Sys2Proof.Tests

open Sys2Proof.Machine

/-! ### WellFormed -/

theorem test_wf_accepts : Instr.wellFormed (.fget 255 63 127) = true := by decide
theorem test_wf_refuses_slot : Instr.wellFormed (.fget 256 0 1) = false := by decide
theorem test_wf_refuses_boff : Instr.wellFormed (.fput 0 64 1) = false := by decide
theorem test_wf_refuses_blen : Instr.wellFormed (.fput 0 0 128) = false := by decide
theorem test_wf_refuses_tpdo : Instr.wellFormed (.ptxreq 256) = false := by decide

/-! ### Decoding, from words written out from R78's fields and R81's table -/

/-- A10: OP 0x00. -/
theorem test_decode_nop : decode 0x12345600 = .ok .nop := by decide
/-- A1: OP 0x01, IDX 0x0A at [15:8], BOFF 12 at [21:16], BLEN 16 at [28:22]. -/
theorem test_decode_fget : decode (0x01 + (0x0A <<< 8) + (12 <<< 16) + (16 <<< 22)) = .ok (.fget 10 12 16) := by
  decide
/-- A2: OP 0x02, IDX 7, BOFF 56, BLEN 8. -/
theorem test_decode_fput : decode 0x02380702 = .ok (.fput 7 56 8) := by decide
/-- A5: BLEN at its largest value; A12: c[31:29] do not matter. -/
theorem test_decode_fget_blen : decode 0x1FC00A01 = .ok (.fget 10 0 127) ∧
    decode 0xE4000A01 = .ok (.fget 10 0 16) := by decide
/-- A17. -/
theorem test_decode_pcreate : decode 0x00000010 = .ok .pcreate := by decide
theorem test_decode_pdestroy : decode 0x00000011 = .ok .pdestroy := by decide
/-- A9: IDX 0xFF. -/
theorem test_decode_ptxreq : decode 0x0000FF12 = .ok (.ptxreq 255) := by decide
theorem test_decode_ptask : decode 0xAB000013 = .ok .ptask := by decide
/-- E1: IMM16 0x2310 at [31:16]. -/
theorem test_decode_ealarm : decode 0x23100020 = .ok (.ealarm 0x2310) := by decide
theorem test_decode_eclear : decode 0x00000021 = .ok .eclear := by decide
theorem test_decode_eforce : decode 0x00000022 = .ok .eforce := by decide
theorem test_decode_ecobid : decode 0x00000023 = .ok .ecobid := by decide
theorem test_decode_scobid : decode 0x00000030 = .ok .scobid := by decide
theorem test_decode_svalid : decode 0x00000031 = .ok .svalid := by decide
theorem test_decode_fack : decode 0x00000040 = .ok .fack := by decide
theorem test_decode_fclr : decode 0x00000041 = .ok .fclr := by decide
/-- A13 to A16: undefined. -/
theorem test_decode_undefined : [0x03, 0x14, 0x42, 0xFF].map (fun c => (decode c).toOption) =
    [none, none, none, none] := by decide
/-- The decoder through the table's numbering of bits. -/
theorem test_decode_table : decodeTableWord 32 0x02380702 = some (.fput 7 56 8) := by decide

/-! ### The states the tests start from -/

/-- The next state, when there is one. -/
def next? (r : Result) : Option State :=
  match r with
  | .next s => some s
  | .fault _ => none
  | .refused _ => none

/-- The test configuration with two RPDOs and two TPDOs: slots rx 0, 1, tx 2, 3, emcy 4, sync 5, scr 6. -/
def small : Params := { Params.testConfig with nRpdo := 2, nTpdo := 2, elemCap := 32 }

/-- Reset with the small configuration. -/
def idle : State := State.resetWith small

/-- A definition with one mapping entry. -/
def define (comm : Word) (tt : BitVec 8) (m : Word) : PdoDef :=
  { comm := comm, ttype := tt, mapCnt := 1, map := (Vector.replicate 8 0).set 0 m }

/-- A TPDO definition with one mapping entry. -/
def defineTx (comm : Word) (tt : BitVec 8) (m : Word) : TxDef :=
  { base := define comm tt m, chg := false, inhibit := 0, syncStart := 0 }

/-- RPDO 0 asynchronous, TPDO 0 cyclic with type 1, the other two INVALID. -/
def defined : State :=
  { idle with
    defRx := [define 0x201 255 0x60400010, PdoDef.reset]
    defTx := [defineTx 0x181 1 0x60410010, TxDef.reset] }

/-- The 16-bit object 0x6040 at address 0x100, 2-aligned: SEL 1 (R112). -/
def elem16 : Elem := { kind := .data, off := 0, w := 2, addr := 0x100, sel := 1, hookId := none }

/-- A compiled cyclic TPDO with a cycle of two SYNCs, the next of which hits. -/
def cyclic : TxEntry :=
  { totLen := 2, sync := true, cls := .syncCyc, ncyc := 2, chg := false,
    elems := [{ elem16 with addr := 0x102 }], syncCnt := 1, req := false, primed := false, prev := 0 }

/-- A compiled event-driven TPDO, requested. -/
def event : TxEntry :=
  { cyclic with sync := false, cls := .event, ncyc := 0, syncCnt := 0, req := true }

/-- Slot fields of a registered receive slot with a new frame. -/
def received (id : CobId) (len : Nat) : Slot :=
  { Slot.reset with id := id, len := len, data := 0x1234, new := true, reg := true }

/-- An active set: RPDO 0 asynchronous and RPDO 1 synchronous, each with a new frame, TPDO 0 cyclic, TPDO 1
event-driven; the SYNC slot installed with a SYNC waiting. -/
def live : State :=
  { idle with
    active := true
    crx := [some ⟨2, false, [elem16]⟩, some ⟨2, true, [elem16]⟩]
    ctx := [some cyclic, some event]
    slots := [received 0x201 2, received 0x301 2, { Slot.reset with id := 0x181, len := 2 },
      { Slot.reset with id := 0x281, len := 2 }, Slot.reset, { received 0x080 0 with hpRx := true }, Slot.reset]
    syncInstalled := true
    validIn := true
    mem := [(0x102, 0x55)] }

/-- `live` after a SYNC: TPDO 0's frame handed to the transport. -/
def handed : State :=
  { live with
    chainCur := some 0
    slots := live.slots.modify 2 fun sl => { sl with txst := .ready } }

/-- Two synchronous TPDOs, one on the bus and one queued. -/
def queued : State :=
  { live with
    ctx := [some cyclic, some cyclic]
    chain := [1]
    chainCur := some 0
    slots := (live.slots.modify 2 fun sl => { sl with txst := .sending }).modify 3 fun sl =>
      { sl with txst := .filling } }

/-- The EMCY slot holds a frame the transport has not sent. -/
def emcyBusy : State := { idle with slots := idle.slots.modify 4 fun sl => { sl with txst := .ready, len := 8 } }

/-- The EMCY slot is inhibited. -/
def emcyInhibited : State := { idle with slots := idle.slots.modify 4 fun sl => { sl with inh := true } }

/-- One agent's step is asked for. -/
def asked (x : Input) (s : State) : State := { s with inputs := [x] }

/-! ### One step of each command -/

/-- A10, K1. -/
theorem test_nop : (next? (exec .nop { idle with status := .busy })).map (·.status) = some .ok := by decide

/-- The scratch slot of vectors B1 to B7. -/
def scratch : State :=
  { State.reset with slots := State.reset.slots.modify 10 fun sl => { sl with data := 0x0123456789ABCDEF } }

/-- B2. -/
theorem test_fget : (next? (exec (.fget 10 4 12) scratch)).map (fun t => (t.res0, t.res1, t.status)) =
    some (0x00000CDE, 0, .ok) := by decide
/-- B11: 60 + 5 > 64. -/
theorem test_fget_errArg : (next? (exec (.fget 10 60 5) scratch)).map (·.status) = some .errArg := by decide
/-- B7: only bits 13 to 15 change, to 0, 1, 0. -/
theorem test_fput : (next? (exec (.fput 10 13 3) { scratch with arg0 := 0xA })).map
    (fun t => ((t.slot 10).data, t.status)) = some (0x0123456789AB4DEF, .ok) := by decide
/-- B14: the slot is Ready. -/
theorem test_fput_busy : (next? (exec (.fput 2 0 8) handed)).map (fun t => (t.status, t.slots)) =
    some (.busy, handed.slots) := by decide

/-- PC15: the entry's 8 bits are not the object's 16. -/
theorem test_pcreate_fail : (next? (exec .pcreate { idle with
    defRx := [define 0x201 255 0x60400008, PdoDef.reset] })).map
    (fun t => (t.status, t.cfgErr, t.fault, t.active)) = some (.cfgFail, 0x00080007, 0x10, false) := by decide
/-- Program P3, RTSTAT of TPDO 0 (type 1, TOTLEN 2) after PCREATE: 0x123. -/
theorem test_pcreate : (next? (exec .pcreate defined)).map (fun t =>
    (t.status, t.active, t.readReg (.txDef 0 .rtStat), (t.slot 0).reg, (t.slot 0).id, (t.slot 2).id)) =
    some (.ok, true, 0x123, true, 0x201, 0x181) := by decide
/-- PC34: a handed and a queued frame are withdrawn. -/
theorem test_pdestroy : (next? (exec .pdestroy { queued with
    slots := queued.slots.modify 2 fun sl => { sl with txst := .ready } })).map
    (fun t => ((t.slot 2).txst, (t.slot 3).txst, t.chain, t.chainCur, t.active)) =
    some (.idle, .idle, [], none, false) := by decide
/-- RT18, RT19. -/
theorem test_ptxreq_errors : (next? (exec (.ptxreq 5) live)).map (·.status) = some .errArg ∧
    (next? (exec (.ptxreq 1) defined)).map (·.status) = some .errState := by decide
/-- R145: REQ is set. -/
theorem test_ptxreq : (next? (exec (.ptxreq 0) live)).map
    (fun t => ((t.txEntry 0).map (·.req), (t.txEntry 1).map (·.prev), t.status)) =
    some (some true, some 0, .ok) := by decide

/-- R131, as RT1: the element's two bytes are stored little-endian and counted, and NEW falls. -/
theorem test_ptask_decodes : (next? (exec .ptask live)).map
    (fun t => (t.mem.read 0x100, t.mem.read 0x101, t.rxCnt, (t.slot 0).new, (t.slot 1).new)) =
    some (0x34, 0x12, [1, 0], false, true) := by decide
/-- RT7: the sample is taken, handed to the transport and counted. -/
theorem test_ptask_sends : (next? (exec .ptask { live with mem := [(0x102, 0x2A), (0x103, 0xEF)] })).map
    (fun t => ((t.slot 3).data, (t.slot 3).len, (t.slot 3).txst, t.txCnt)) =
    some (0xEF2A, 2, .ready, [0, 1]) := by decide

/-- E1. -/
theorem test_ealarm : (next? (exec (.ealarm 0x2310) { idle with arg0 := 0x01, arg1 := 0x10 })).map (fun t =>
    ((t.slot 4).id, (t.slot 4).len, (t.slot 4).data, t.readReg (.window 4 .ctrl), t.emcyErrReg, t.status)) =
    some (0x085, 8, 0x0000000010012310, 0x00000808, 0x01, .ok) := by decide
/-- E4: the class bits accumulate, the code is replaced. -/
theorem test_ealarm_accumulates : (next? (exec (.ealarm 0x8110) { idle with
    arg0 := 0x04, emcyErrReg := 0x01, emcyMfr := 0x10, emcyCode := 0x2310, alarms := true })).map
    (fun t => ((t.slot 4).data, t.emcyErrReg, t.emcyCode)) =
    some (0x0000000010058110, 0x05, 0x8110) := by decide
/-- E6. -/
theorem test_eclear : (next? (exec .eclear { idle with emcyErrReg := 0x05, emcyCode := 0x8110, alarms := true })).map
    (fun t => (t.emcyErrReg, t.emcyMfr, t.emcyCode, t.alarms, (t.slot 4).data, (t.slot 4).txst)) =
    some (0, 0, 0, false, 0, .ready) := by decide
/-- E14. -/
theorem test_eforce : (next? (exec .eforce { idle with
    emcyCobId := 0xA5, emcyErrReg := 0x02, emcyCode := 0x3210 })).map
    (fun t => ((t.slot 4).id, (t.slot 4).data, t.status)) = some (0x0A5, 0x023210, .ok) := by decide
/-- ECOBID of 0x600 and of 0x680. -/
theorem test_ecobid : (next? (exec .ecobid { idle with arg0 := 0x600 })).map
      (fun t => (t.status, t.emcyCobId, t.fault)) = some (.errCobId, 0x80000600, 0x4) ∧
    (next? (exec .ecobid { idle with arg0 := 0x680 })).map
      (fun t => (t.status, t.emcyCobId, t.fault)) = some (.ok, 0x680, 0) := by decide
/-- SCOBID of 0x77F and of 0x780. -/
theorem test_scobid : (next? (exec .scobid { live with arg0 := 0x77F })).map
      (fun t => (t.status, t.syncCobId, t.syncInstalled, t.fault)) = some (.errCobId, 0x8000077F, false, 0x8) ∧
    (next? (exec .scobid { live with arg0 := 0x780 })).map
      (fun t => (t.status, t.syncCobId, t.syncInstalled, t.fault)) = some (.ok, 0x780, true, 0) := by decide
/-- Y1. -/
theorem test_svalid : (next? (exec .svalid idle)).map
    (fun t => (t.readReg (.window 5 .ctrl), t.readReg (.core .syncCtrl), (t.slot 5).id)) =
    some (0x00005000, 0x5, 0x080) := by decide
/-- K2. -/
theorem test_fack : (next? (exec .fack { idle with fault := 0x04, faultNew := 0x04 })).map
    (fun t => (t.res0, t.res1, t.faultNew, t.fault)) = some (0x4, 0, 0, 0x04) := by decide
/-- K8. -/
theorem test_fclr : (next? (exec .fclr { idle with fault := 0x06, faultNew := 0x02, cfgErr := 9 })).map
    (fun t => (t.fault, t.faultNew, t.cfgErr)) = some (0, 0, 9) := by decide

/-! ### One step of the other agents -/

/-- PDOSTAT of 95_test_vectors.md 2.4 with CHAIN_CUR 0 and one entry queued; RTSTAT of a synchronous RPDO with TOTLEN 2;
STATUS BUSY. -/
theorem test_values : queued.readReg (.core .pdoStat) = 0x00010003 ∧ live.readReg (.rxDef 1 .rtStat) = 0x23 ∧
    State.readReg { idle with status := .busy } (.core .status) = 3 := by decide

/-- K12: a 16-bit read, and a read of a hole, are bus errors; K9: ID. -/
theorem test_bus : (next? (step (asked (.hostRead 0x008 .w16) idle))).map (·.response) = some .busError ∧
    (next? (step (asked (.hostRead 0x038 .w32) idle))).map (·.response) = some .busError ∧
    (next? (step (asked (.hostRead 0x000 .w32) idle))).map (·.response) = some (.value 0x50444F01) := by decide
/-- K14, K15. -/
theorem test_write : (next? (step (asked (.hostWrite 0x1004 .w32 0x1FF) idle))).map
      (·.readReg (.rxDef 0 .ttype)) = some 0xFF ∧
    (next? (step (asked (.hostWrite 0x100C .w32 0xFF) idle))).map (·.readReg (.rxDef 0 .cfg)) = some 0 := by decide
/-- T1. -/
theorem test_evRx : (next? (step (asked (.evRx 0 [0x01, 0x02]) { live with
    slots := live.slots.modify 0 fun sl => { sl with data := 0x0012345678EE000F } }))).map
    (fun t => ((t.slot 0).data, (t.slot 0).len, (t.slot 0).ovr)) = some (0x0012345678EE0201, 2, true) := by decide
/-- RT17: the completion of the chain's current frame, though it failed, hands the next one. -/
theorem test_evDone : (next? (step (asked (.evDone 2 false) queued))).map
    (fun t => ((t.slot 2).txst, (t.slot 3).txst, t.chain, t.chainCur)) =
    some (.idle, .ready, [], some 1) := by decide
/-- Program P3 after the first RT step: the marked frame is Ready and CHAIN_CUR; RPDO 1 is decoded. -/
theorem test_rtStep : (next? (step (asked .rtStep live))).map
    (fun t => (t.chainCur, (t.slot 2).txst, (t.txEntry 0).map (·.syncCnt), t.rxCnt, (t.slot 5).new)) =
    some (some 0, .ready, some 2, [0, 1], false) := by decide
/-- The first step after reset runs the word placed for it. -/
theorem test_withFetchWord : (next? (step (State.reset.withFetchWord 32 0x00000003))).map (·.status) =
    some .illegal := by decide

/-! ### Invariants of the states above -/

theorem live_shape : ShapeInv live := by constructor <;> decide
theorem live_inv : Inv live :=
  { shape := live_shape
    compiled := by constructor <;> decide
    chain := by constructor <;> decide
    reg := by constructor <;> decide
    emcy := by constructor; decide }
theorem handed_inv : Inv handed :=
  { shape := by constructor <;> decide
    compiled := by constructor <;> decide
    chain := by constructor <;> decide
    reg := by constructor <;> decide
    emcy := by constructor; decide }
theorem queued_inv : Inv queued :=
  { shape := by constructor <;> decide
    compiled := by constructor <;> decide
    chain := by constructor <;> decide
    reg := by constructor <;> decide
    emcy := by constructor; decide }
theorem defined_shape : ShapeInv defined := by constructor <;> decide
theorem idle_shape : ShapeInv idle := by constructor <;> decide
theorem idle_chain : ChainInv idle := by constructor <;> decide

/-- Where the environment refuses nothing, it admits the accesses of a pass. -/
theorem admitted_of_nil {s : State} {sync : Bool} (h : s.params.memRefused = []) : s.passAdmitted sync := by
  constructor <;> intros <;> simp [Params.admitsWrite, Params.admitsRead, h]

/-! ### A witness for the hypotheses of every statement -/

theorem witness_DecodeEncodeRoundTrip : ∃ i : Instr, i.wellFormed = true ∧ i = .fget 255 63 127 := ⟨_, by decide, rfl⟩

theorem witness_DecodeIgnoresUnlistedBits : ∃ (c c' : Word) (i : Instr), decode c = .ok i ∧ c' ≠ c ∧
    c' &&& usedMask i = c &&& usedMask i := ⟨0x00400A01, 0xE0400A01, .fget 10 0 1, by decide, by decide, by decide⟩

theorem witness_UndefinedOpcodeIsIllegal :
    (BitVec.extractLsb' 0 8 (0x12345603 : Word)).toNat ∉ [0x00, 0x01, 0x02, 0x10, 0x11, 0x12, 0x13, 0x20, 0x21, 0x22,
      0x23, 0x30, 0x31, 0x40, 0x41] ∧
    (BitVec.extractLsb' 0 8 (0x12345602 : Word)).toNat ∈ [0x00, 0x01, 0x02, 0x10, 0x11, 0x12, 0x13, 0x20, 0x21, 0x22,
      0x23, 0x30, 0x31, 0x40, 0x41] := by decide

theorem witness_StepRunsTheDecodedCommand :
    ((asked (.hostWrite 0x004 .w32 0x00000312) live).inputs = [.hostWrite 0x004 .w32 0x00000312] ∧
      decode 0x00000312 = .ok (.ptxreq 3)) ∧ decode 0x00000003 = .error (.undefinedOp 3) := by decide

theorem witness_FgetReturnsTheField :
    (live.params.nSlot ≤ 7 ∧ 64 < 0 + 65 ∧ 64 < 60 + 5) ∧
      (6 < live.params.nSlot ∧ 63 + 1 ≤ 64 ∧ 0 + 64 ≤ 64) := by decide

theorem witness_FputWritesTheField :
    (live.params.nSlot ≤ 7 ∧ 64 < 1 + 64) ∧ (2 < live.params.nSlot ∧ 0 + 64 ≤ 64 ∧
      (handed.slot 2).txst = .ready ∧ (queued.slot 2).txst = .sending ∧ (live.slot 2).txst = .idle ∧
      (queued.slot 3).txst = .filling) := by decide

theorem witness_CodecLaws : legalField 0 63 = true ∧ legalField 63 1 = true ∧ 0 + 63 ≤ 63 := by decide

theorem witness_ByteAlignedFields : (1 ≤ 8 ∧ 0 + 8 ≤ 8) ∧ (1 ≤ 1 ∧ 7 + 1 ≤ 8) ∧ (3 < 4 ∨ 4 + 2 ≤ 3) := by decide

/-- No set active, a TPDO frame still on the bus (PC31). -/
def onTheBus : State := { idle with slots := idle.slots.modify 3 fun sl => { sl with txst := .sending } }

theorem witness_CreateIsRefused : live.active = true ∧ onTheBus.active = false ∧
    ∃ j < onTheBus.params.nTpdo, (onTheBus.slot (onTheBus.params.slotTx j)).txst = .sending := by decide

theorem defined_noneSending : defined.noneSending := by unfold State.noneSending; decide

theorem witness_CreateIsAllOrNothing : ShapeInv defined ∧ defined.active = false ∧ defined.noneSending :=
  ⟨defined_shape, by decide, defined_noneSending⟩

theorem witness_CommitInstallsTheSet : ShapeInv defined ∧ defined.active = false ∧ defined.noneSending ∧
    (compileSet defined.params defined.defRx defined.defTx).toOption.isSome = true :=
  ⟨defined_shape, by decide, defined_noneSending, by decide⟩

theorem witness_CompiledSetFollowsTheDefinitions : ShapeInv defined ∧
    (next? (exec .pcreate defined)).map (fun t => (t.status, (t.rxEntry 0).isSome, (t.txEntry 0).isSome)) =
      some (.ok, true, true) :=
  ⟨defined_shape, by decide⟩

/-- R113: an RPDO and a TPDO with one COB-ID (PC28). -/
def duplicated : State :=
  { idle with
    defRx := [define 0x201 255 0x60400010, PdoDef.reset]
    defTx := [defineTx 0x40000201 1 0x60410010, TxDef.reset] }

/-- Two objects of 8 and 1 bytes in one PDO (PC21). -/
def tooLong : PdoDef :=
  { comm := 0x201, ttype := 255, mapCnt := 2, map := ((Vector.replicate 8 0).set 0 0x22000040).set 1 0x60600008 }

theorem witness_FaultyDefinitionsNeverActivate :
    (ShapeInv duplicated ∧ duplicated.active = false ∧ ¬ duplicated.liveIds.Nodup) ∧
    (ShapeInv { idle with defRx := [PdoDef.reset, tooLong] } ∧ tooLong.comm.getLsbD 31 = false ∧
      8 < tooLong.bytesBefore tooLong.mapCnt.toNat) ∧
    ShapeInv { idle with defTx := [TxDef.reset, { TxDef.reset with base := tooLong }] } :=
  ⟨⟨by constructor <;> decide, by decide, by decide⟩,
    ⟨by constructor <;> decide, by decide, by decide⟩, by constructor <;> decide⟩

/-- RPDO 0 compiles; RPDO 1 has a mapping of 8 and 1 bytes, which fails at entry 1 (PC21). -/
def failsLater : State := { idle with defRx := [define 0x201 255 0x60400010, { tooLong with comm := 0x301 }] }

/-- A 29-bit COB-ID in RPDO 1 after RPDO 0 compiled. -/
def badLater : State := { idle with defRx := [define 0x201 255 0x60400010, { tooLong with comm := 0x20000301 }] }

theorem duplicated_passes : duplicated.passUpTo duplicated.livePdos.length := by unfold State.passUpTo; decide

/-- Each clause: a check before the entries and an entry's check, both after a PDO that compiled; a duplicate
(PC28); and every code of an entry at its boundary (PC29: 5; PC11: 7; PC20: 9; PC21: 8). -/
theorem witness_CreateReportsTheFirstFailure :
    (ShapeInv badLater ∧ badLater.active = false ∧ badLater.passUpTo 1 ∧
      (badLater.livePdos[1]?).map (·.headCode) = some 1) ∧
    (ShapeInv failsLater ∧ failsLater.active = false ∧ failsLater.passUpTo 1 ∧
      (failsLater.livePdos[1]?).map (fun x => (x.headCode, x.base.mapCnt, failsLater.entryFault 1 x 0,
        failsLater.entryFault 1 x 1)) = some (0, 2, 0, 8)) ∧
    (ShapeInv duplicated ∧ duplicated.passUpTo duplicated.livePdos.length ∧
      (duplicated.livePdos.map fun y => y.base.comm.extractLsb' 0 11) = [0x201, 0x201]) ∧
    (entryCode small .rx 0x60400010 31 2 = 0 ∧ entryCode small .rx 0x60400010 32 2 = 5) ∧
    entryCode small .rx 0x12340010 0 2 = 7 ∧ entryCode small .tx 0x00050008 0 1 = 7 ∧
    entryCode small .rx 0x21000210 0 2 = 9 ∧ entryCode small .rx 0x60600008 0 9 = 8 :=
  ⟨⟨by constructor <;> decide, by decide, by unfold State.passUpTo; decide, by decide⟩,
    ⟨by constructor <;> decide, by decide, by unfold State.passUpTo; decide, by decide⟩,
    ⟨by constructor <;> decide, duplicated_passes, by decide⟩, by decide, by decide, by decide, by decide, by decide⟩

/-- The CFGERR words of an entry that fails after a PDO compiled (R178: CODE 8, IDX 1, ENTRY 1, ENTRY_VALID) and of
PC28. -/
theorem test_cfgErr : (next? (exec .pcreate failsLater)).map (·.cfgErr) = some 0x00090108 ∧
    (next? (exec .pcreate duplicated)).map (·.cfgErr) = some 0x0000001A := by decide

/-- A mapping of exactly 8 bytes (PC22). -/
def eightBytes : State := { idle with defTx := [defineTx 0x181 254 0x22000040, TxDef.reset] }

theorem witness_SoundDefinitionsActivate : ShapeInv eightBytes ∧ eightBytes.active = false ∧ eightBytes.noneSending ∧
    eightBytes.passUpTo eightBytes.livePdos.length ∧ eightBytes.liveIds.Nodup ∧
    (eightBytes.livePdos.map fun x => x.base.bytesBefore 1) = [8] :=
  ⟨by constructor <;> decide, by decide, by unfold State.noneSending; decide, by unfold State.passUpTo; decide,
    by decide, by decide⟩

theorem witness_CreateDependsOnTheDefinitionsOnly :
    defined.arg0 ≠ State.arg0 { defined with arg0 := 1, mem := [(1, 1)] } ∧ defined.active = false ∧ defined.noneSending ∧
      State.noneSending { defined with arg0 := 1, mem := [(1, 1)] } :=
  ⟨by decide, by decide, defined_noneSending, defined_noneSending⟩

theorem idle_noneSending : idle.noneSending := by unfold State.noneSending; decide

theorem witness_EmptyDefinitionsGiveAnEmptySet : ShapeInv idle ∧ idle.active = false ∧ idle.noneSending ∧
    (∀ d ∈ idle.defRx, d.comm.getLsbD 31 = true) ∧ (∀ d ∈ idle.defTx, d.base.comm.getLsbD 31 = true) ∧ small.wf :=
  ⟨idle_shape, by decide, idle_noneSending, by decide, by decide, by decide⟩

theorem witness_DestroyReleasesTheSet : ShapeInv idle ∧ idle.active = false ∧ ShapeInv queued ∧ queued.active = true :=
  ⟨idle_shape, by decide, queued_inv.shape, by decide⟩

theorem witness_TransmitRequestSetsReq : live.params.nTpdo ≤ 2 ∧ idle.txEntry 1 = none ∧
    live.txEntry 1 = some event := by decide

/-- No set active, a SYNC waiting and one overrun. -/
def syncWaits : State :=
  { idle with
    syncInstalled := true
    validIn := true
    slots := idle.slots.modify 5 fun _ => { received 0x080 0 with hpRx := true, ovr := true } }

theorem witness_InactiveSetMovesNoData : ChainInv syncWaits ∧ syncWaits.active = false ∧
    (syncWaits.slot syncWaits.params.syncS).new = true ∧ (syncWaits.slot syncWaits.params.syncS).ovr = true ∧
    (live.slot live.params.syncS).new = true ∧ (live.slot live.params.syncS).ovr = false :=
  ⟨by constructor <;> decide, by decide, by decide, by decide, by decide, by decide⟩

theorem witness_DecodeStoresTheElements : live.mem.wf = true ∧
    (∀ a ∈ [elem16].flatMap Elem.storeAddrs, live.params.admitsWrite a = true) ∧
    live.rxEntry 0 = some ⟨2, false, [elem16]⟩ ∧ RxEntry.wf ⟨2, false, [elem16]⟩ = true ∧ (live.slot 0).len = 2 ∧
    (State.slot { live with slots := [received 0x201 1] } 0).len ≠ 2 ∧ [elem16][0]? = some elem16 ∧
    elem16.kind = .data ∧ elem16.addr + 1 ∉ (List.drop 1 [elem16]).flatMap Elem.storeAddrs :=
  ⟨by decide, (admitted_of_nil (s := live) (sync := false) rfl).1, by decide, by decide, by decide, by decide,
    by decide, by decide, by decide⟩

theorem witness_TaskPassCompletesAndFrames : live.passAdmitted false ∧ (live.rxEntry 1).all (·.sync) = true ∧
    (live.txEntry 0).all (·.sync) = true ∧ live.params.emcyS ≤ 4 ∧ (0x102 : Word) ∉ live.storeAddrs false :=
  ⟨admitted_of_nil rfl, by decide, by decide, by decide, by decide⟩

theorem witness_TaskPassDecodes : ShapeInv live ∧ live.passAdmitted false ∧ live.active = true ∧
    (live.rxEntry 0).any (!·.sync) = true ∧ (live.slot 0).new = true ∧ (live.rxEntry 1).any (·.sync) = true :=
  ⟨live_shape, admitted_of_nil rfl, by decide, by decide, by decide, by decide⟩

/-- The bytes PTASK stores from `live`, little-endian; and a frame of another length that also overran. -/
theorem witness_TaskPassDecodes_bytes : live.storedBytes false = [(0x100, 0x34), (0x101, 0x12)] ∧
    (State.slot { live with slots := [{ received 0x201 3 with ovr := true }] } 0).len ≠ 2 ∧
    (State.slot { live with slots := [{ received 0x201 3 with ovr := true }] } 0).ovr = true ∧
    live.storedBytes true = [(0x100, 0x34), (0x101, 0x12)] := by decide

/-- TPDO 1 change-driven, its last sample the one process memory gives again. -/
def unchanged : TxEntry := { event with chg := true, primed := true, prev := 0x55 }

/-- `live` with that TPDO, and TPDO 0 one SYNC before its hit. -/
def quiet : State := { live with ctx := [some { cyclic with syncCnt := 2 }, some unchanged] }

theorem quiet_inv : Inv quiet :=
  { shape := by constructor <;> decide
    compiled := by constructor <;> decide
    chain := by constructor <;> decide
    reg := by constructor <;> decide
    emcy := by constructor; decide }

/-- The unmarked cases of TaskPassSends and RtStepSends: an unchanged sample, no hit, and a queued frame that the
chain hands over. -/
theorem witness_unmarked : Inv quiet ∧ (∀ sync, quiet.passAdmitted sync) ∧ quiet.active = true ∧
    (quiet.slot quiet.params.syncS).new = true ∧
    (next? (exec .ptask quiet)).map (fun t => (t.txCnt, (t.txEntry 1).map (·.req))) = some ([0, 0], some false) ∧
    (next? (perform .rtStep quiet)).map (fun t => (t.txCnt, (t.slot 2).txst, (t.txEntry 0).map (·.syncCnt))) =
      some ([0, 0], .idle, some 1) :=
  ⟨quiet_inv, fun _ => admitted_of_nil rfl, by decide, by decide, by decide, by decide⟩

theorem witness_TaskPassSends : Inv live ∧ live.passAdmitted false ∧ live.active = true ∧ live.txEntry 1 = some event ∧
    event.sync = false ∧ event.req = true ∧ (live.slot (live.params.slotTx 1)).txst = .idle :=
  ⟨live_inv, admitted_of_nil rfl, by decide, by decide, by decide, by decide, by decide⟩

theorem witness_RtStepSends : Inv live ∧ live.passAdmitted true ∧ live.active = true ∧
    (live.slot live.params.syncS).new = true ∧
    live.txEntry 0 = some cyclic ∧ cyclic.sync = true ∧ cyclic.syncCnt = 1 :=
  ⟨live_inv, admitted_of_nil rfl, by decide, by decide, by decide, by decide, by decide⟩

theorem witness_RtStepDecodesAndFrames : Inv live ∧ live.passAdmitted true ∧ live.active = true ∧
    (live.slot live.params.syncS).new = true ∧ (live.rxEntry 1).all (·.sync) = true ∧ (live.slot 1).new = true ∧
    (live.rxEntry 0).all (fun c => !c.sync) = true ∧ (live.txEntry 1).all (fun c => !c.sync) = true ∧
    (0x102 : Word) ∉ live.storeAddrs true :=
  ⟨live_inv, admitted_of_nil rfl, by decide, by decide, by decide, by decide, by decide, by decide, by decide⟩

/-- A requested RT step with no SYNC waiting, and a SYNC's delivery. -/
theorem witness_RtStepDecodesAndFrames_request :
    (idle.slot idle.params.syncS).new = false ∧ (asked .rtStep idle).inputs = [.rtStep] ∧
    (next? (step (asked .rtStep idle))).map (·.response) = some .notEnabled ∧
    (next? (step (asked (.evRx 5 []) { live with
      slots := live.slots.modify 5 fun sl => { sl with new := false } }))).map
        (fun t => (t.slot t.params.syncS).new) = some true := by decide

theorem witness_RtStepQueuesTheChain :
    (Inv live ∧ live.active = true ∧ (next? (perform .rtStep live)).map (·.chainCur) = some (some 0)) ∧
    (Inv handed ∧ handed.active = true ∧ (next? (perform .rtStep handed)).map (·.chainCur) = some (some 0)) :=
  ⟨⟨live_inv, by decide, by decide⟩, handed_inv, by decide, by decide⟩

theorem witness_AlarmRule :
    (State.isDuplicate { idle with alarms := true } 0 = true ∧ idle.isDuplicate 0 = false) ∧
    (idle.emcyCobId.getLsbD 31 = false ∧ (idle.slot idle.params.emcyS).txst = .idle ∧
      (idle.slot idle.params.emcyS).inh = false) ∧
    (emcyBusy.slot emcyBusy.params.emcyS).txst ≠ .idle ∧
    (emcyInhibited.slot emcyInhibited.params.emcyS).inh = true ∧ BitVec.getLsbD (0x80000085 : Word) 31 = true := by
  decide

theorem witness_AlarmClearRule : idle.alarms = false ∧ State.alarms { idle with alarms := true } = true ∧
    State.emcyBlocked { emcyBusy with alarms := true } = true ∧
    State.emcyBlocked { idle with alarms := true } = false := by decide

theorem witness_ForceRule : idle.emcyErrReg = 0 ∧ State.emcyErrReg { idle with emcyErrReg := 1 } ≠ 0 ∧
    State.gateOpen { emcyInhibited with emcyErrReg := 1 } = false ∧
    State.gateOpen { idle with emcyErrReg := 1 } = true := by decide

theorem witness_EmcyCobIdRule :
    (inRanges idle.params.emcyReserved 0x57F = false ∧ inRanges idle.params.emcyReserved 0x580 = true) ∧
    (inRanges idle.params.emcyReserved 0x67F = true ∧ inRanges idle.params.emcyReserved 0x680 = false) ∧
    BitVec.getLsbD (0x20000085 : Word) 29 = true ∧ BitVec.getLsbD (0x80000600 : Word) 31 = true := by decide

theorem witness_ClearThenReassert : AlarmInv { idle with alarms := true, emcyCode := 0x1000 } ∧
    (next? (exec .eclear { idle with alarms := true, emcyCode := 0x1000 })).map
      (fun t => (t.status, t.emcyErrReg, t.emcyMfr, t.emcyCode, t.alarms)) = some (.ok, 0, 0, 0, false) ∧
    ShapeInv idle ∧ (idle.slot idle.params.emcyS).txst = .idle :=
  ⟨by unfold AlarmInv; decide, by decide, idle_shape, by decide⟩

theorem witness_AlarmsCoverTheEmcyRegisters : AlarmInv (asked (.command (encode (.ealarm 0x1000))) idle) ∧
    (next? (step (asked (.command (encode (.ealarm 0x1000))) idle))).map (·.alarms) = some true :=
  ⟨by unfold AlarmInv; decide, by decide⟩

theorem witness_SyncCobIdRule : ShapeInv live ∧
    (inRanges live.params.syncReserved 0x680 = false ∧ inRanges live.params.syncReserved 0x67F = true) ∧
    (inRanges live.params.syncReserved 0x7E5 = true ∧ inRanges live.params.syncReserved 0x7E6 = false) ∧
    (live.syncInstalled = true ∧ (live.slot live.params.syncS).id = 0x080) ∧ idle.syncInstalled = false :=
  ⟨live_shape, by decide, by decide, by decide, by decide⟩

theorem witness_SyncValidityRule : ShapeInv live := live_shape

theorem witness_ControlCommands : (next? (exec .fack idle)).isSome = true ∧ (next? (exec .fclr idle)).isSome = true := by
  decide

/-- PDO_LEN latched and reported. -/
def reported : State := { live with fault := 1 }

theorem witness_FaultsAreReportedOnce : reported.fault.getLsbD 0 = true ∧ reported.faultNew.getLsbD 0 = false ∧
    (next? (step (asked (.command (encode .fack)) reported))).isSome = true ∧
    decode (encode .fack) ≠ .ok .fclr := by decide

/-- K6, K7: the output follows the enabled bit and no other. -/
theorem test_irq : State.irq { idle with irqEn := 0x4, faultNew := 0x4 } = true ∧
    State.irq { idle with irqEn := 0x1, faultNew := 0x4 } = false := by decide

theorem witness_ReadsArePure : regAt small 0x000 = some (.core .id) ∧ regAt small 0x207C = some (.txDef 1 .rtStat) ∧
    regAt small 0x2080 = none ∧ (0x002 : BitVec 16).toNat % 4 ≠ 0 := by decide

theorem witness_ReadValuesCarryTheFields : Inv queued ∧ queued.chain.length = 1 ∧ queued.txEntry 0 = some cyclic ∧
    idle.txEntry 0 = none :=
  ⟨queued_inv, by decide, by decide, by decide⟩

theorem test_coreOffsets : coreOffsets.all (fun x => regAt small x.1 == some (.core x.2)) = true := by decide

theorem witness_RegistersAreAtTheirAddresses : small.wf ∧ regAt small (addrOf (.txDef 1 (.map 7))) =
    some (.txDef 1 (.map 7)) ∧ regAt small 0x103C = some (.rxDef 0 .rtStat) ∧ regAt small 0x1080 = none ∧
    regAt small 0x2080 = none ∧ regAt small 0x068 = none := by decide

theorem test_window_reserved : regAt small 0x80D4 = some (.window 6 .reserved) ∧
    regAt small 0x80DC = some (.window 6 .reserved) := by
  simp [regAt, slotWindow, winRegAt, Params.nSlot, small]

theorem witness_WritesStoreTheWritableBits : ShapeInv (asked (.hostWrite 0x064 .w32 7) live) ∧
    regAt live.params 0x064 = some (.core .syncCtrl) ∧ regAt live.params 0x038 = none ∧
    Reg.core .syncCtrl ≠ Reg.core .cmd :=
  ⟨by constructor <;> decide, by decide, by decide, by decide⟩

theorem witness_ReceiveRule : (live.slot 0).reg = true ∧ (List.replicate 8 (1 : Byte)).length ≤ 8 ∧
    0 < live.slots.length ∧ (live.slot 2).reg = false ∧ 8 < (List.replicate 9 (1 : Byte)).length := by decide

theorem witness_TransportMarks : (State.slot { live with slots := [{ Slot.reset with rtrReg := true }] } 0).rtrReg = true ∧
    (handed.slot 2).txst = .ready ∧ (handed.slot 2).inh = false ∧ live.params.nRpdo ≤ 2 ∧ 4 ≤ live.params.emcyS ∧
    ¬ 5 ≤ live.params.emcyS := by decide

theorem witness_CompletionAdvancesTheChain : ShapeInv queued ∧ ChainInv queued ∧ (queued.slot 2).txst = .sending ∧
    queued.chainCur = some 0 ∧ queued.chain = [1] ∧ (live.slot 2).txst ≠ .sending ∧ live.chainCur = none :=
  ⟨queued_inv.shape, queued_inv.chain, by decide, by decide, by decide, by decide, by decide⟩

/-- The completion of the chain's current frame with nothing queued, and of a slot that is not the current one. -/
theorem witness_CompletionAdvancesTheChain_ends :
    (ShapeInv { handed with slots := queued.slots.modify 3 fun sl => { sl with txst := .idle } } ∧
      State.chain handed = [] ∧ handed.chainCur = some 0 ∧
      (next? (step (asked (.evDone 2 true) { handed with
        slots := queued.slots.modify 3 fun sl => { sl with txst := .idle } }))).map (fun t => (t.chain, t.chainCur)) =
        some ([], none)) ∧
    (next? (step (asked (.evDone 4 true) { queued with
        slots := queued.slots.modify 4 fun sl => { sl with txst := .sending } }))).map
      (fun t => (t.chain, t.chainCur, (t.slot 4).txst)) = some ([1], some 0, .idle) :=
  ⟨⟨by constructor <;> decide, by decide, by decide, by decide⟩, by decide⟩

theorem witness_ApplicationWrites : live.mem.wf = true ∧
    (asked (.app 0xFFFFFFFF .b2 0x1234) live).inputs = [.app 0xFFFFFFFF .b2 0x1234] := by decide

theorem witness_ResetRule : (asked .resetInput live).inputs = [.resetInput] := rfl

theorem witness_ResetMeetsTheInvariants : small.wf := by decide

theorem inv_asked {s : State} (x : Input) (h : Inv s) : Inv (asked x s) :=
  { shape := ⟨h.shape.1, h.shape.2, h.shape.3, h.shape.4, h.shape.5, h.shape.6, h.shape.7, h.shape.8, h.shape.9,
      h.shape.10⟩
    compiled := ⟨h.compiled.1, h.compiled.2, h.compiled.3⟩
    chain := ⟨h.chain.1, h.chain.2, h.chain.3, h.chain.4, h.chain.5, h.chain.6, h.chain.7, h.chain.8, h.chain.9⟩
    reg := ⟨h.reg.1, h.reg.2, h.reg.3, h.reg.4, h.reg.5, h.reg.6, h.reg.7, h.reg.8, h.reg.9, h.reg.10, h.reg.11,
      h.reg.12, h.reg.13⟩
    emcy := ⟨h.emcy.1⟩ }

/-- For the statements about every step from a state that meets the invariants: an RT step of an active set, a
completion that advances the chain, a command and a reset all answer a next state. -/
theorem witness_StepKeepsTheInvariants :
    (Inv (asked .rtStep live) ∧ (next? (step (asked .rtStep live))).isSome = true) ∧
    (Inv (asked (.evDone 2 true) queued) ∧ (next? (step (asked (.evDone 2 true) queued))).isSome = true) ∧
    (Inv (asked (.command (encode .pdestroy)) queued) ∧
      (next? (step (asked (.command (encode .pdestroy)) queued))).isSome = true) ∧
    (Inv (asked .resetInput queued) ∧ (next? (step (asked .resetInput queued))).isSome = true) :=
  ⟨⟨inv_asked _ live_inv, by decide⟩, ⟨inv_asked _ queued_inv, by decide⟩, ⟨inv_asked _ queued_inv, by decide⟩,
    inv_asked _ queued_inv, by decide⟩

theorem witness_TransportOwnedSlotsAreFrozen :
    Inv (asked .rtStep queued) ∧ (next? (step (asked .rtStep queued))).isSome = true ∧
    (asked .rtStep queued).inputs.head? ≠ some .resetInput ∧ (queued.slot 2).txst = .sending :=
  ⟨inv_asked _ queued_inv, by decide, by decide, by decide⟩

theorem witness_OwnershipFollowsTheTable :
    Inv (asked (.evTake 2) handed) ∧
    (next? (step (asked (.evTake 2) handed))).map (fun t => (t.slot 2).txst) = some .sending ∧
    (asked (.evTake 2) handed).inputs.head? ≠ some .resetInput :=
  ⟨inv_asked _ handed_inv, by decide, by decide⟩

theorem witness_OnlyCommandsReport :
    (next? (step (asked .rtStep live))).isSome = true ∧ Input.commandWord .rtStep = none ∧
    (next? (step (asked (.hostWrite 0x004 .w32 0) live))).isSome = true ∧
    Input.commandWord (.hostWrite 0x004 .w32 0) ≠ none ∧
    Input.commandWord (.hostWrite 0x004 .w16 0) = none := by decide

theorem witness_DefinitionsAndCompiledSetAreApart :
    (next? (step (asked (.command (encode .ptask)) live))).isSome = true ∧
    decode (encode .ptask) ≠ .ok .pcreate ∧ decode (encode .ptask) ≠ .ok .pdestroy ∧
    (next? (step (asked (.hostWrite 0x1004 .w32 5) live))).isSome = true := by decide

/-- The environment refuses the writes of the RPDOs' second byte. -/
def refusing : State :=
  { live with params := { small with memRefused := [⟨0x101, 0x101, false, true⟩] } }

/-- The environment refuses the reads of the TPDOs' first byte. -/
def unreadable : State :=
  { live with params := { small with memRefused := [⟨0x102, 0x102, true, false⟩] } }

/-- `refusing`, with only the synchronous RPDO's frame new; `unreadable`, with TPDO 1's slot on the bus. -/
def spared : State := { refusing with slots := refusing.slots.modify 0 fun sl => { sl with new := false } }
def busy : State := { unreadable with slots := unreadable.slots.modify 3 fun sl => { sl with txst := .sending } }

theorem stored_refused {s : State} {sync : Bool} {a : Word} (ha : a ∈ s.storeAddrs sync)
    (h : s.params.admitsWrite a = false) : ¬ s.passAdmitted sync := fun hm => by
  rw [hm.1 a ha] at h; cases h

theorem read_refused {s : State} {sync : Bool} {a : Word} (ha : a ∈ s.loadAddrs sync)
    (h : s.params.admitsRead a = false) : ¬ s.passAdmitted sync := fun hm => by
  rw [hm.2 a ha] at h; cases h

theorem witness_OnlyARefusedAccessStops :
    (refusing.active = true ∧ ¬ refusing.passAdmitted false ∧ ¬ refusing.passAdmitted true ∧
      next? (exec .ptask refusing) = none ∧ next? (step (asked .rtStep refusing)) = none) ∧
    (unreadable.active = true ∧ ¬ unreadable.passAdmitted false ∧ ¬ unreadable.passAdmitted true ∧
      next? (exec .ptask unreadable) = none ∧ next? (step (asked .rtStep unreadable)) = none) :=
  ⟨⟨by decide, stored_refused (a := 0x101) (by decide) (by decide),
      stored_refused (a := 0x101) (by decide) (by decide), by decide, by decide⟩,
    by decide, read_refused (a := 0x102) (by decide) (by decide),
    read_refused (a := 0x102) (by decide) (by decide), by decide, by decide⟩

/-- R70: an element the environment refuses, of a PDO the pass does not move, stops nothing. -/
theorem test_unmoved_refused : (next? (exec .ptask spared)).isSome = true ∧ next? (step (asked .rtStep spared)) = none ∧
    (next? (exec .ptask busy)).isSome = true := by decide

theorem witness_MemoryWriters :
    (next? (step (asked (.evRtr 0) live))).isSome = true ∧ (next? (step (asked .rtStep live))).isSome = true ∧
    (0x102 : Word) ∉ live.storeAddrs true ∧
    (next? (step (asked (.command (encode .ptask)) live))).isSome = true ∧
    decode (encode .ptask) = .ok .ptask ∧ (0x102 : Word) ∉ live.storeAddrs false := by decide

end Sys2Proof.Tests
end

section
/-! Proofs about the command encoding (30_encoding.md R77 to R87). The idea of all of them: a command is its row's OP
with operands read from the word's fields, and `usedMask` keeps exactly those fields. -/

namespace Sys2Proof

/-! ### Fields of a masked word -/

/-- A mask that covers a field leaves it as it is. -/
theorem wordField_and_of_allOnes {m : Word} {lo width : Nat} (h : m.extractLsb' lo width = BitVec.allOnes width)
    (c : Word) : wordField (c &&& m) lo width = wordField c lo width := by
  rw [wordField, wordField, BitVec.extractLsb'_and, h, BitVec.and_allOnes]

/-- A mask that is 0 on a field clears it. -/
theorem wordField_and_of_zero {m : Word} {lo width : Nat} (h : m.extractLsb' lo width = 0#width) (c : Word) :
    wordField (c &&& m) lo width = 0 := by
  rw [wordField, BitVec.extractLsb'_and, h, BitVec.and_zero, BitVec.toNat_ofNat, Nat.zero_mod]

theorem wordField_lt (c : Word) (lo width : Nat) : wordField c lo width < 2 ^ width := BitVec.isLt _

theorem toNat_imm16Field (c : Word) : (imm16Field c).toNat = wordField c 16 16 := rfl

/-- R78: a word is the sum of the fields of format F and its three top bits. -/
theorem toNat_eq_formatF (c : Word) : c.toNat = wordField c 0 8 + wordField c 8 8 * 2 ^ 8 +
    wordField c 16 6 * 2 ^ 16 + wordField c 22 7 * 2 ^ 22 + wordField c 29 3 * 2 ^ 29 := by
  simp only [wordField, BitVec.extractLsb'_toNat, Nat.shiftRight_eq_div_pow]
  omega

/-- R78: a word is the sum of OP, bits 15..8 and the field IMM16 of format E. -/
theorem toNat_eq_formatE (c : Word) :
    c.toNat = wordField c 0 8 + wordField c 8 8 * 2 ^ 8 + wordField c 16 16 * 2 ^ 16 := by
  simp only [wordField, BitVec.extractLsb'_toNat, Nat.shiftRight_eq_div_pow]
  omega

/-! ### What the masks of the four formats keep (R78) -/

theorem toNat_and_maskN (c : Word) : (c &&& 0x000000FF).toNat = opField c := by
  rw [toNat_eq_formatE, wordField_and_of_allOnes (by decide), wordField_and_of_zero (by decide),
    wordField_and_of_zero (by decide), opField, Nat.zero_mul, Nat.zero_mul, Nat.add_zero]

theorem toNat_and_maskP (c : Word) : (c &&& 0x0000FFFF).toNat = opField c + idxField c * 2 ^ 8 := by
  rw [toNat_eq_formatE, wordField_and_of_allOnes (by decide), wordField_and_of_allOnes (by decide),
    wordField_and_of_zero (by decide), opField, idxField, Nat.zero_mul, Nat.add_zero]

theorem toNat_and_maskF (c : Word) : (c &&& 0x1FFFFFFF).toNat =
    opField c + (idxField c * 2 ^ 8 + boffField c * 2 ^ 16 + blenField c * 2 ^ 22) := by
  rw [toNat_eq_formatF, wordField_and_of_allOnes (by decide), wordField_and_of_allOnes (by decide),
    wordField_and_of_allOnes (by decide), wordField_and_of_allOnes (by decide), wordField_and_of_zero (by decide),
    opField, idxField, boffField, blenField]
  omega

theorem toNat_and_maskE (c : Word) :
    (c &&& 0xFFFF00FF).toNat = opField c + (imm16Field c).toNat * 2 ^ 16 := by
  rw [toNat_eq_formatE, wordField_and_of_allOnes (by decide), wordField_and_of_zero (by decide),
    wordField_and_of_allOnes (by decide), opField, toNat_imm16Field, Nat.zero_mul, Nat.add_zero]

/-! ### The decoder by rows -/

/-- The command of i's row whose operands are read from the fields of c. -/
def Instr.reread (c : Word) : Instr → Instr
  | .fget _ _ _ => .fget (idxField c) (boffField c) (blenField c)
  | .fput _ _ _ => .fput (idxField c) (boffField c) (blenField c)
  | .ptxreq _ => .ptxreq (idxField c)
  | .ealarm _ => .ealarm (imm16Field c)
  | i => i

/-- R84: OP selects the row, the fields give the operands. -/
theorem decode_of_opField {c : Word} {i : Instr} (h : opField c = opcodeOf i) : decode c = .ok (i.reread c) := by
  cases i <;> simp only [decode, h, opcodeOf, Instr.reread]

/-- R84, inverted: a decoded command is its row with the operands of the word. -/
theorem of_decode_eq_ok {c : Word} {i : Instr} (h : decode c = .ok i) :
    opField c = opcodeOf i ∧ i.reread c = i := by
  unfold decode at h
  split at h <;> cases h <;> exact ⟨‹_›, rfl⟩

/-- R80: the operands read from a word fit their fields. -/
theorem reread_wellFormed (c : Word) (i : Instr) : (i.reread c).wellFormed = true := by
  have hidx : idxFits (idxField c) = true := decide_eq_true (wordField_lt c 8 8)
  have hboff : boffFits (boffField c) = true := decide_eq_true (wordField_lt c 16 6)
  have hblen : blenFits (blenField c) = true := decide_eq_true (wordField_lt c 22 7)
  cases i <;> simp only [Instr.reread, Instr.wellFormed, hidx, hboff, hblen, Bool.and_true]

/-- R78: the listed bits of a word are the OP of its row and the operands in their places. -/
theorem toNat_and_usedMask {c : Word} {i : Instr} (h : opField c = opcodeOf i) :
    (c &&& usedMask i).toNat = opcodeOf (i.reread c) + operandBits (i.reread c) := by
  cases i <;> simp only [usedMask, toNat_and_maskN, toNat_and_maskP, toNat_and_maskF, toNat_and_maskE, h,
    Instr.reread, opcodeOf, operandBits, Nat.add_zero]

/-- R78, R79: the word of the command read from c is the listed bits of c. -/
theorem encode_reread {c : Word} {i : Instr} (h : opField c = opcodeOf i) :
    encode (i.reread c) = c &&& usedMask i := by
  rw [encode, ← toNat_and_usedMask h, BitVec.ofNat_toNat, BitVec.setWidth_eq]

/-- Every format lists OP. -/
theorem opField_and_usedMask (c : Word) (i : Instr) : opField (c &&& usedMask i) = opField c :=
  wordField_and_of_allOnes (by cases i <;> (rw [usedMask]; decide)) c

/-- R79: the operands of a command are read from its listed bits only. -/
theorem reread_and_usedMask (c : Word) (i : Instr) : i.reread (c &&& usedMask i) = i.reread c := by
  cases i
  case fget | fput =>
    simp only [Instr.reread, usedMask, idxField, boffField, blenField]
    rw [wordField_and_of_allOnes (by decide), wordField_and_of_allOnes (by decide),
      wordField_and_of_allOnes (by decide)]
  case ptxreq =>
    exact congrArg Instr.ptxreq (wordField_and_of_allOnes (m := 0x0000FFFF) (by decide) c)
  case ealarm =>
    exact congrArg Instr.ealarm (BitVec.eq_of_toNat_eq (wordField_and_of_allOnes (m := 0xFFFF00FF) (by decide) c))
  all_goals rfl

/-- R79: two words that agree on the listed bits of a command decode to it alike. -/
theorem decode_congr_usedMask {c c' : Word} {i : Instr} (h : decode c = .ok i)
    (hm : c' &&& usedMask i = c &&& usedMask i) : decode c' = .ok i := by
  obtain ⟨hop, hi⟩ := of_decode_eq_ok h
  have hop' : opField c' = opcodeOf i := by
    rw [← opField_and_usedMask c' i, hm, opField_and_usedMask, hop]
  rw [decode_of_opField hop', ← reread_and_usedMask, hm, reread_and_usedMask, hi]

/-! ### The opcode map -/

/-- The OP values of the opcode map (R81). -/
def definedOps : List Nat :=
  [0x00, 0x01, 0x02, 0x10, 0x11, 0x12, 0x13, 0x20, 0x21, 0x22, 0x23, 0x30, 0x31, 0x40, 0x41]

/-- R81: the opcode map is the OPs of the commands, no more and no fewer. -/
theorem mem_definedOps_iff {op : Nat} : op ∈ definedOps ↔ ∃ i, opcodeOf i = op := by
  constructor
  · intro h
    have hrows : definedOps = [Instr.nop, .fget 0 0 0, .fput 0 0 0, .pcreate, .pdestroy, .ptxreq 0, .ptask, .ealarm 0,
      .eclear, .eforce, .ecobid, .scobid, .svalid, .fack, .fclr].map opcodeOf := rfl
    rw [hrows] at h
    obtain ⟨i, -, hi⟩ := List.mem_map.mp h
    exact ⟨i, hi⟩
  · rintro ⟨i, rfl⟩
    cases i <;> simp [opcodeOf, definedOps]

/-- R84, R86: the decoder reads a command exactly where OP is in the opcode map. -/
theorem exists_decode_eq_ok_iff {c : Word} : (∃ i, decode c = .ok i) ↔ opField c ∈ definedOps := by
  rw [mem_definedOps_iff]
  constructor
  · rintro ⟨i, h⟩
    exact ⟨i, (of_decode_eq_ok h).1.symm⟩
  · rintro ⟨i, h⟩
    exact ⟨_, decode_of_opField h.symm⟩

/-- R86: a word that is no command ends ILLEGAL and changes nothing else. -/
theorem Machine.runCommand_of_undefined {c : Word} (h : ¬ ∃ i, decode c = .ok i) (s : Machine.State) :
    Machine.runCommand c s = .next (s.finish .illegal) := by
  unfold Machine.runCommand
  split
  next i hi => exact absurd ⟨i, hi⟩ h
  next => rfl

/-! ### The statements -/

/-- Settles O3: the decoded command is its row read from the listed bits of the word, and a word with the same
listed bits has the same OP and operands. -/
theorem decodeIgnoresUnlistedBits : Obligations.DecodeIgnoresUnlistedBits := by
  intro c i h
  obtain ⟨hop, hi⟩ := of_decode_eq_ok h
  have hwf : i.wellFormed = true := hi ▸ reread_wellFormed c i
  have henc : encode i = c &&& usedMask i := by
    calc encode i = encode (i.reread c) := by rw [hi]
      _ = c &&& usedMask i := encode_reread hop
  exact ⟨by cases i <;> rfl, hwf, henc, fun _ => decode_congr_usedMask h⟩

/-- Settles O4: the decoder reads a command exactly where OP is in the opcode map. -/
theorem undefinedOpcodeIsIllegal : Obligations.UndefinedOpcodeIsIllegal := fun _ s =>
  ⟨fun hop => Machine.runCommand_of_undefined (mt exists_decode_eq_ok_iff.mp hop) s,
    exists_decode_eq_ok_iff.mpr⟩

end Sys2Proof
end

section
/-! Proofs about the frame codec commands (40_frame_codec.md R96, R97). The idea of both: one equation that
lists the ways the command ends, then the field of the result bit by bit (`getBits_bit`, `putBits_bit`). -/

namespace Sys2Proof.Machine

/-! ### Operands of the codec commands -/

/-- R94: the fields FGET and FPUT refuse. -/
theorem legalField_eq_false_iff {off len : Nat} :
    legalField off len = false ↔ len = 0 ∨ 64 < len ∨ 64 < off + len := by
  simp only [legalField, Bool.and_eq_false_iff, decide_eq_false_iff_not]
  omega

/-- R39: the transport owns a slot's data while the slot is Ready or Sending. -/
theorem Slot.transportOwned_iff {sl : Slot} : sl.transportOwned = true ↔ sl.txst = .ready ∨ sl.txst = .sending := by
  rw [Slot.transportOwned, Bool.or_eq_true, beq_iff_eq, beq_iff_eq]

/-- R41: RES1 and RES0 together are the whole 64-bit result. -/
theorem hiWord_append_loWord (r : DWord) : hiWord r ++ loWord r = r :=
  BitVec.extractLsb'_append_extractLsb' (w := 32) (len := 32)

/-- Two changes of S[k] that agree on what S[k] holds are the same. -/
theorem modSlot_congr {s : State} {k : Nat} {f g : Slot → Slot} (h : f (s.slot k) = g (s.slot k)) :
    s.modSlot k f = s.modSlot k g := by
  have hslots : s.slots.modify k f = s.slots.modify k g := by
    by_cases hk : k < s.slots.length
    · have hs : s.slot k = s.slots[k] := by rw [slot_eq, List.getElem?_eq_getElem hk, Option.getD_some]
      rw [hs] at h
      rw [List.modify_eq_take_cons_drop hk, List.modify_eq_take_cons_drop hk, h]
    · rw [List.modify_eq_self (Nat.le_of_not_lt hk), List.modify_eq_self (Nat.le_of_not_lt hk)]
  rw [State.modSlot, State.modSlot, hslots]

/-! ### The commands by the ways they end -/

/-- R96: a bad slot or field ends ERR_ARG; every other FGET completes. -/
theorem exec_fget (slot boff blen : Nat) (s : State) :
    exec (.fget slot boff blen) s = .next (
      if s.params.nSlot ≤ slot ∨ blen = 0 ∨ 64 < blen ∨ 64 < boff + blen then s.finish .errArg
      else { s with
        res0 := loWord (getBits (s.slot slot).data boff blen)
        res1 := hiWord (getBits (s.slot slot).data boff blen)
        status := .ok }) := by
  change execFget slot boff blen s = _
  simp only [execFget, Bool.not_eq_true', legalField_eq_false_iff, ite_or, State.finish]

/-- R97: a bad slot or field ends ERR_ARG, a slot the transport owns BUSY; every other FPUT completes. -/
theorem exec_fput (slot boff blen : Nat) (s : State) :
    exec (.fput slot boff blen) s = .next (
      if s.params.nSlot ≤ slot ∨ blen = 0 ∨ 64 < blen ∨ 64 < boff + blen then s.finish .errArg
      else if (s.slot slot).txst = .ready ∨ (s.slot slot).txst = .sending then s.finish .busy
      else (s.modSlot slot fun sl =>
        { sl with data := putBits (s.slot slot).data boff blen s.val64 }).finish .ok) := by
  have hput : (s.modSlot slot fun sl => { sl with data := putBits sl.data boff blen s.val64 }) =
      s.modSlot slot fun sl => { sl with data := putBits (s.slot slot).data boff blen s.val64 } :=
    modSlot_congr rfl
  change execFput slot boff blen s = _
  simp only [execFput, hput, Bool.not_eq_true', legalField_eq_false_iff, Slot.transportOwned_iff, ite_or]

/-! ### The statements -/

/-- Settles O6: RES1:RES0 is the field GetBits reads, whose bit k is frame bit boff + k. -/
theorem fgetReturnsTheField : Obligations.FgetReturnsTheField := by
  intro s slot boff blen
  rw [exec_fget]
  refine ⟨fun hbad => by rw [if_pos hbad]; rfl, fun hs h1 h64 hend => ?_⟩
  refine ⟨_, _, by rw [if_neg (by omega)], fun k _ => ?_⟩
  rw [hiWord_append_loWord, getBits_bit, byteAt_bit]

/-- Settles O7: the new buffer is PutBits of VAL64 into the old one, which differs in the field's bits only. -/
theorem fputWritesTheField : Obligations.FputWritesTheField := by
  intro s slot boff blen
  rw [exec_fput]
  refine ⟨fun hbad => by rw [if_pos hbad]; rfl, fun hs h1 h64 hend => ?_⟩
  rw [if_neg (by omega)]
  refine ⟨fun ho => by rw [if_pos ho]; rfl, fun ho => ?_⟩
  have hfree : ¬((s.slot slot).txst = .ready ∨ (s.slot slot).txst = .sending) := by
    rcases ho with h | h <;> rw [h] <;> decide
  refine ⟨_, by rw [if_neg hfree]; rfl, fun b hb => ?_⟩
  have hfield : (boff ≤ b ∧ b < boff + blen ∧ b < 64) ↔ (boff ≤ b ∧ b < boff + blen) := by omega
  rw [byteAt_bit, byteAt_bit, putBits_bit, State.val64]
  exact if_congr hfield rfl rfl

end Sys2Proof.Machine
end

section
/-! Proofs about the creation and the release of the set (41_pdo_config.md R102, R115, R116). The idea of both:
Commit and PDESTROY are one pass over the slots, so a slot afterwards is its own case of that pass. -/

namespace Sys2Proof.Machine

/-! ### A pass over the PDO slots -/

/-- The pass that does `rx i` to slotRx(i), `tx j` to slotTx(j), and leaves the other slots alone (R36). -/
def pdoPass (p : Params) (rx tx : Nat → Slot → Slot) (k : Nat) (sl : Slot) : Slot :=
  if k < p.nRpdo then rx k sl
  else if p.isTxSlot k then tx (k - p.nRpdo) sl
  else sl

/-- R115: Commit's slots are such a pass. -/
theorem commit_slots (s : State) (st : Staged) : (s.commit st).slots = s.slots.mapIdx (pdoPass s.params
    (fun i => commitRxSlot (s.rxDef i) (st.rx.getD i none))
    (fun j => commitTxSlot (s.txDef j) (st.tx.getD j none))) := rfl

/-- R116: PDESTROY's slots are such a pass. -/
theorem destroySet_slots (s : State) : s.destroySet.slots =
    s.slots.mapIdx (pdoPass s.params (fun _ => destroyRxSlot) (fun _ => destroyTxSlot)) := rfl

section
variable {s t : State} {rx tx : Nat → Slot → Slot} (h : t.slots = s.slots.mapIdx (pdoPass s.params rx tx))
include h

theorem slotRx_of_pdoPass (hs : ShapeInv s) {i : Nat} (hi : i < s.params.nRpdo) :
    t.slot (s.params.slotRx i) = rx i (s.slot (s.params.slotRx i)) := by
  have hk : i < s.slots.length := by rw [hs.slots, Params.nSlot]; omega
  rw [Params.slotRx, slot_mapIdx h hk, pdoPass, if_pos hi]

theorem slotTx_of_pdoPass (hs : ShapeInv s) {j : Nat} (hj : j < s.params.nTpdo) :
    t.slot (s.params.slotTx j) = tx j (s.slot (s.params.slotTx j)) := by
  have hk : s.params.nRpdo + j < s.slots.length := by rw [hs.slots, Params.nSlot]; omega
  rw [Params.slotTx, slot_mapIdx h hk, pdoPass, if_neg (by omega), if_pos (by simp [Params.isTxSlot, hj]),
    Nat.add_sub_cancel_left]

/-- The EMCY, SYNC and scratch slots are no PDO's, and beyond them there is no slot. -/
theorem slot_of_pdoPass_of_emcyS_le {k : Nat} (hk : s.params.emcyS ≤ k) : t.slot k = s.slot k := by
  rw [Params.emcyS] at hk
  rcases Nat.lt_or_ge k s.slots.length with hl | hl
  · have htx : s.params.isTxSlot k = false := by
      simp only [Params.isTxSlot, Bool.and_eq_false_iff, decide_eq_false_iff_not]
      omega
    rw [slot_mapIdx h hl, pdoPass, if_neg (by omega), htx, if_neg Bool.false_ne_true]
  · rw [slot_of_ge hl, slot_of_ge (by rw [h, List.length_mapIdx]; exact hl)]

theorem slots_length_of_pdoPass : t.slots.length = s.slots.length := by
  rw [h, List.length_mapIdx]

end

/-! ### What Commit and PDESTROY do to a TPDO slot -/

/-- R115: Commit does not touch TXST. -/
@[simp] theorem commitTxSlot_txst (d : TxDef) (c : Option TxEntry) (sl : Slot) :
    (commitTxSlot d c sl).txst = sl.txst := by
  cases c <;> rfl

/-- R116: only a frame on the bus keeps its slot from Idle. -/
theorem destroyTxSlot_eq (sl : Slot) : destroyTxSlot sl =
    { sl with rtrReg := false, rtr := false, txst := if sl.txst = .sending then .sending else .idle } := by
  cases h : sl.txst <;> simp [destroyTxSlot, h]

/-- R52: with no active set and nothing on the bus, no TPDO slot holds a frame. -/
theorem ChainInv.txst_eq_idle {s : State} (hc : ChainInv s) (ha : s.active = false) (hn : s.noneSending) {j : Nat}
    (hj : j < s.params.nTpdo) : (s.slot (s.params.slotTx j)).txst = .idle := by
  obtain ⟨-, -, hchain, -⟩ := hc.inactive ha
  cases htx : (s.slot (s.params.slotTx j)).txst with
  | idle => rfl
  | filling => simpa [hchain] using hc.filling j hj htx
  | ready => exact absurd htx (hc.withdrawn ha j hj)
  | sending => exact absurd htx (hn j hj)

/-! ### Staged TPDOs -/

/-- R106: the TPDO loop yields staged entries only. -/
theorem compileTxs_staged {p : Params} {ds : List TxDef} {j n m : Nat} {es : List (Option TxEntry)}
    (h : compileTxs p ds j n = .ok (es, m)) {c : TxEntry} (hc : some c ∈ es) : ∃ d k, c = stageTx d k := by
  induction ds generalizing j n m es with
  | nil => cases h; cases hc
  | cons d ds ih =>
    unfold compileTxs at h
    split at h
    next =>
      split at h
      next => cases h
      next hrest =>
        cases h
        exact ih hrest (by simpa using hc)
    next =>
      split at h
      next => cases h
      next k _ =>
        split at h
        next => cases h
        next hrest =>
          cases h
          rcases List.mem_cons.mp hc with heq | hmem
          · exact ⟨d, k, Option.some.inj heq⟩
          · exact ih hrest hmem

/-- R102: the TPDOs of a set that compiles are what the TPDO loop yields. -/
theorem compileTxs_of_compileSet {p : Params} {rx : List PdoDef} {tx : List TxDef} {st : Staged}
    (h : compileSet p rx tx = .ok st) : ∃ n m, compileTxs p tx 0 n = .ok (st.tx, m) := by
  unfold compileSet at h
  split at h
  next => cases h
  next =>
    split at h
    next => cases h
    next htx =>
      split at h
      next => cases h
      next => cases h; exact ⟨_, _, htx⟩

/-! ### The commands -/

/-- R102: PCREATE's BUSY condition fails when no TPDO frame is on the bus. -/
theorem someTxSending_eq_false_iff {s : State} : s.someTxSending = false ↔ s.noneSending := by
  simp [State.someTxSending, State.noneSending]

/-- R102: a set that compiles is committed when PCREATE is not refused. -/
theorem exec_pcreate_of_compiles {s : State} {st : Staged} (ha : s.active = false) (hn : s.noneSending)
    (hst : compileSet s.params s.defRx s.defTx = .ok st) : exec .pcreate s = .next ((s.commit st).finish .ok) := by
  change execPcreate s = _
  simp [execPcreate, ha, someTxSending_eq_false_iff.mpr hn, hst]

/-- R116: with no active set PDESTROY has nothing to release. -/
theorem exec_pdestroy_of_inactive {s : State} (ha : s.active = false) :
    exec .pdestroy s = .next (s.finish .ok) := by
  change execPdestroy s = _
  simp [execPdestroy, ha]

/-- R116: PDESTROY releases an active set. -/
theorem exec_pdestroy_of_active {s : State} (ha : s.active = true) :
    exec .pdestroy s = .next (s.destroySet.finish .ok) := by
  change execPdestroy s = _
  simp [execPdestroy, ha]

/-! ### The statements -/

/-- Settles O12: Commit's counters have the sizes the definitions have, each slot is its case of Commit's pass,
and a staged TPDO starts with the runtime fields Commit gives it. -/
theorem commitInstallsTheSet : Obligations.CommitInstallsTheSet := by
  intro s st hs ha hn hst
  have hslots := (finish_slots _ .ok).trans (commit_slots s st)
  refine ⟨_, exec_pcreate_of_compiles ha hn hst, ?state, slots_length_of_pdoPass hslots,
    fun i hi => slotRx_of_pdoPass hslots hs hi, fun j hj => ⟨fun hnone => ?uncompiled, fun c hc => ⟨?compiled, ?fresh⟩⟩,
    fun k hk => slot_of_pdoPass_of_emcyS_le hslots hk, fun hchain j hj => ?idle⟩
  case state => simp only [State.finish, State.commit, List.map_const', hs.rxCnt, hs.txCnt]
  case uncompiled =>
    have htx : st.tx.getD j none = none := hnone
    rw [slotTx_of_pdoPass hslots hs hj, htx]
    rfl
  case compiled =>
    have htx : st.tx.getD j none = some c := hc
    rw [slotTx_of_pdoPass hslots hs hj, htx]
    rfl
  case fresh =>
    obtain ⟨n, m, htx⟩ := compileTxs_of_compileSet hst
    obtain ⟨d, k, rfl⟩ := compileTxs_staged htx (txEntry_mem hc)
    exact ⟨rfl, rfl, rfl, rfl⟩
  case idle => rw [slotTx_of_pdoPass hslots hs hj, commitTxSlot_txst, hchain.txst_eq_idle ha hn hj]

/-- Settles O18: without an active set PDESTROY only reports OK; with one, each slot is its case of the release's
pass, which moves every TPDO slot that is not Sending to Idle. -/
theorem destroyReleasesTheSet : Obligations.DestroyReleasesTheSet := by
  intro s hs
  refine ⟨exec_pdestroy_of_inactive, fun ha => ?_⟩
  have hslots := (finish_slots _ .ok).trans (destroySet_slots s)
  refine ⟨_, exec_pdestroy_of_active ha, ?state, slots_length_of_pdoPass hslots, fun i hi => slotRx_of_pdoPass hslots hs hi,
    fun j hj => ?tpdo, fun k hk => slot_of_pdoPass_of_emcyS_le hslots hk⟩
  case state => simp only [State.finish, State.destroySet, List.map_const', hs.crx, hs.ctx]
  case tpdo => rw [slotTx_of_pdoPass hslots hs hj, destroyTxSlot_eq]

end Sys2Proof.Machine
end

section
/-! Proofs about the EMCY composer (43_emcy_sync.md R151 to R158). The idea of all of them: EALARM, ECLEAR and EFORCE
end in one way, `State.emcyEnd`, that only the COB-ID's INVALID bit and the gate decide. -/

namespace Sys2Proof.Machine

/-! ### The EMCY frame (R151) -/

/-- R9: byte k of a value widened to 64 bits is byte k of the value. -/
theorem byteAt_setWidth {n : Nat} (v : BitVec n) {k : Nat} (hk : k < 8) :
    byteAt (v.setWidth 64) k = v.extractLsb' (8 * k) 8 := by
  apply byte_ext
  intro i hi
  have h64 : 8 * k + i < 64 := by omega
  rw [byteAt_getLsbD, BitVec.getLsbD_setWidth, BitVec.getLsbD_extractLsb', decide_eq_true h64, Bool.true_and]

/-- R151: where byte k of the composed frame comes from. -/
theorem byteAt_emcyFrame (d : FrameBuf) (code : BitVec 16) (errReg : Byte) (mfr : Word) {k : Nat} (hk : k < 8) :
    byteAt (emcyFrame d code errReg mfr) k =
      if k = 7 then 0
      else if 3 ≤ k then mfr.extractLsb' (8 * (k - 3)) 8
      else if k = 2 then errReg
      else code.extractLsb' (8 * k) 8 := by
  have hlast := byteAt_putBits (putBits (putBits (putBits d 0 16 (code.setWidth 64)) 16 8 (errReg.setWidth 64)) 24 32
    (mfr.setWidth 64)) 7 1 0 k hk
  have hmfr := byteAt_putBits (putBits (putBits d 0 16 (code.setWidth 64)) 16 8 (errReg.setWidth 64)) 3 4
    (mfr.setWidth 64) k hk
  have herr := byteAt_putBits (putBits d 0 16 (code.setWidth 64)) 2 1 (errReg.setWidth 64) k hk
  have hcode := byteAt_putBits d 0 2 (code.setWidth 64) k hk
  rw [emcyFrame, hlast, hmfr, herr, hcode, byteAt_setWidth mfr (by omega), byteAt_setWidth errReg (by omega),
    byteAt_setWidth code (by omega)]
  have hcases : k = 0 ∨ k = 1 ∨ k = 2 ∨ (3 ≤ k ∧ k < 7) ∨ k = 7 := by omega
  rcases hcases with rfl | rfl | rfl | h | rfl
  · rfl
  · rfl
  · exact BitVec.extractLsb'_eq_self
  · rw [if_neg (by omega), if_pos (by omega), if_neg (by omega), if_pos h.1]
  · rfl

/-- R151: the composed frame's bytes are those of the EMCY registers, whatever the slot held. -/
theorem isEmcyFrame_emcyFrame (d : FrameBuf) (code : BitVec 16) (errReg : Byte) (mfr : Word) :
    isEmcyFrame (emcyFrame d code errReg mfr) code errReg mfr := by
  simp [isEmcyFrame, List.range_succ, byteAt_emcyFrame]

/-- R151: ComposeEmcy marks the EMCY slot with that frame. -/
theorem composeEmcy_eq (s : State) : s.composeEmcy =
    s.emcyMarked (emcyFrame (s.slot s.params.emcyS).data s.emcyCode s.emcyErrReg s.emcyMfr) :=
  modSlot_congr rfl

/-! ### How an EMCY command ends -/

/-- R152: the gate is closed while the slot's frame is not done or is inhibited. -/
theorem gateOpen_eq_false_iff {s : State} : s.gateOpen = false ↔
    (s.slot s.params.emcyS).txst ≠ .idle ∨ (s.slot s.params.emcyS).inh = true := by
  simp only [State.gateOpen, Bool.and_eq_false_iff, beq_eq_false_iff_ne, Bool.not_eq_false']

/-- The end of an EMCY command that makes the registers of `u` (R152, R153, R155, R156, R158): without a frame while
the COB-ID is INVALID, turned away while the gate is closed, else with a frame. -/
def State.emcyEnd (s u : State) : State :=
  if cobInvalid s.emcyCobId then u.finish .okNoTx
  else if !s.gateOpen then s.finish .busy
  else u.composeEmcy.finish .ok

/-- R153, R155: the model's form of that end, which tests the gate first. -/
theorem emcyEnd_eq (s u : State) (hcob : u.emcyCobId = s.emcyCobId) :
    (if s.emcyBlocked then s.finish .busy else u.emcySend) = s.emcyEnd u := by
  cases hv : cobInvalid s.emcyCobId <;> simp [State.emcyBlocked, State.emcySend, State.emcyEnd, hcob, hv]

/-- R153, R154: a duplicate EALARM ends DUP; any other takes the alarm into the registers. -/
theorem exec_ealarm (code : BitVec 16) (s : State) : exec (.ealarm code) s = .next
    (if s.isDuplicate code then s.finish .dup else s.emcyEnd (s.raiseAlarm code)) := by
  rw [← emcyEnd_eq s (s.raiseAlarm code) rfl]
  rfl

/-- R155: ECLEAR clears the registers while some alarm is recorded. -/
theorem exec_eclear (s : State) : exec .eclear s = .next
    (if s.alarms = false then s.finish .ok else s.emcyEnd s.clearAlarms) := by
  rw [← emcyEnd_eq s s.clearAlarms rfl]
  change execEclear s = _
  simp only [execEclear, Bool.not_eq_true']

/-- R156: EFORCE sends the registers as they are while the error register is not 0. -/
theorem exec_eforce (s : State) : exec .eforce s = .next
    (if s.emcyErrReg = 0 then s.finish .ok else s.emcyEnd s) := rfl

/-- R158: no frame, and no gate, while the COB-ID is INVALID. -/
theorem emcyEnd_of_invalid {s : State} (hv : s.emcyCobId.getLsbD 31 = true) (u : State) :
    s.emcyEnd u = u.finish .okNoTx :=
  if_pos hv

/-- R152: a closed gate turns the command away, and the registers keep their values. -/
theorem emcyEnd_of_closed {s : State} (hv : s.emcyCobId.getLsbD 31 = false)
    (hg : (s.slot s.params.emcyS).txst ≠ .idle ∨ (s.slot s.params.emcyS).inh = true) (u : State) :
    s.emcyEnd u = s.finish .busy := by
  have hv' : cobInvalid s.emcyCobId = false := hv
  simp [State.emcyEnd, hv', gateOpen_eq_false_iff.mpr hg]

/-- R151, R152: with the gate open the frame of the new registers goes to the transport. -/
theorem emcyEnd_of_open {s : State} (hv : s.emcyCobId.getLsbD 31 = false) (hidle : (s.slot s.params.emcyS).txst = .idle)
    (hinh : (s.slot s.params.emcyS).inh = false) (u : State) :
    ∃ d, isEmcyFrame d u.emcyCode u.emcyErrReg u.emcyMfr ∧ s.emcyEnd u = (u.emcyMarked d).finish .ok := by
  have hv' : cobInvalid s.emcyCobId = false := hv
  refine ⟨_, isEmcyFrame_emcyFrame (u.slot u.params.emcyS).data _ _ _, ?_⟩
  rw [← composeEmcy_eq]
  simp [State.emcyEnd, hv', State.gateOpen, hidle, hinh]

/-- R154: an alarm is a duplicate when ALARMS is set and no EMCY register would change. -/
theorem isDuplicate_iff {s : State} {code : BitVec 16} : s.isDuplicate code = true ↔
    s.alarms = true ∧ s.emcyErrReg ||| s.arg0.extractLsb' 0 8 = s.emcyErrReg ∧
      s.emcyMfr ||| s.arg1 = s.emcyMfr ∧ code = s.emcyCode := by
  simp only [State.isDuplicate, State.raiseAlarm, Bool.and_eq_true, beq_iff_eq, and_assoc]

/-! ### The statements of the composer -/

/-- Settles O28: a duplicate changes STATUS alone; every other alarm ends as `State.emcyEnd` does with the
registers the alarm makes. -/
theorem alarmRule : Obligations.AlarmRule := by
  intro s code
  rw [← isDuplicate_iff, exec_ealarm]
  refine ⟨fun hdup => by rw [if_pos hdup]; rfl, fun hdup => ?_⟩
  rw [if_neg hdup]
  refine ⟨fun hv hg => by rw [emcyEnd_of_closed hv hg]; rfl, fun hv hidle hinh => ?_,
    fun hv => by rw [emcyEnd_of_invalid hv]; rfl⟩
  obtain ⟨d, hd, hend⟩ := emcyEnd_of_open hv hidle hinh (s.raiseAlarm code)
  exact ⟨d, hd, by rw [hend]; rfl⟩

/-- Settles O29: with no alarm ECLEAR changes STATUS alone; else it ends as `State.emcyEnd` does with the
registers cleared. -/
theorem alarmClearRule : Obligations.AlarmClearRule := by
  intro s
  rw [exec_eclear]
  refine ⟨fun ha => by rw [if_pos ha]; rfl, fun ha => ?_⟩
  rw [if_neg (by simp [ha])]
  refine ⟨fun hv hg => by rw [emcyEnd_of_closed hv hg]; rfl, fun hv hidle hinh => ?_,
    fun hv => by rw [emcyEnd_of_invalid hv]; rfl⟩
  obtain ⟨d, hd, hend⟩ := emcyEnd_of_open hv hidle hinh s.clearAlarms
  exact ⟨d, hd, by rw [hend]; rfl⟩

/-- Settles O30: with the error register 0 EFORCE changes STATUS alone; else it ends as `State.emcyEnd` does
with the registers as they are. -/
theorem forceRule : Obligations.ForceRule := by
  intro s
  rw [exec_eforce]
  refine ⟨fun he => by rw [if_pos he]; rfl, fun he => ?_⟩
  rw [if_neg he]
  refine ⟨fun hv => by rw [emcyEnd_of_invalid hv]; rfl, fun hv hg => by rw [emcyEnd_of_closed hv hg]; rfl,
    fun hv hidle hinh => ?_⟩
  obtain ⟨d, hd, hend⟩ := emcyEnd_of_open hv hidle hinh s
  exact ⟨d, hd, by rw [hend]; rfl⟩

end Sys2Proof.Machine
end

section
/-! Proofs about the configuration of the COB-IDs and of the SYNC slot (43_emcy_sync.md R157, R161 to R163). The idea:
ECOBID and SCOBID refuse the same words, and Install changes the SYNC slot and INSTALLED alone. -/

namespace Sys2Proof.Machine

/-! ### COB-ID words ECOBID and SCOBID refuse -/

/-- A valid COB-ID word that is 29-bit or collides with a reserved identifier (R157, R161). -/
def badCobId (reserved : List IdRange) (w : Word) : Bool :=
  !cobInvalid w && (cobFrame w || inRanges reserved (cobId w))

theorem badCobId_eq_true {reserved : List IdRange} {w : Word} (hv : w.getLsbD 31 = false)
    (h : w.getLsbD 29 = true ∨ inRanges reserved (w.extractLsb' 0 11) = true) : badCobId reserved w = true := by
  simp only [badCobId, cobInvalid, cobFrame, cobId, hv, Bool.not_false, Bool.true_and, Bool.or_eq_true]
  exact h

theorem badCobId_eq_false {reserved : List IdRange} {w : Word}
    (h : w.getLsbD 31 = true ∨ (w.getLsbD 29 = false ∧ inRanges reserved (w.extractLsb' 0 11) = false)) :
    badCobId reserved w = false := by
  simp only [badCobId, cobInvalid, cobFrame, cobId, Bool.and_eq_false_iff, Bool.not_eq_false', Bool.or_eq_false_iff]
  exact h

/-- R157, R161: the word stored in place of a refused one is INVALID. -/
theorem cobInvalid_cobInvalidate (w : Word) : cobInvalid (cobInvalidate w) = true := by
  rw [cobInvalid, cobInvalidate, BitVec.getLsbD_or, Bool.or_eq_true]
  exact .inr (by decide)

/-- R157: ECOBID stores the word, or latches and stores it with INVALID set. -/
theorem exec_ecobid (s : State) : exec .ecobid s = .next
    (if badCobId s.params.emcyReserved s.arg0 then
      (State.latch { s with emcyCobId := cobInvalidate s.arg0 } .emcyCobId).finish .errCobId
    else { s with emcyCobId := s.arg0, status := .ok }) := by
  change execEcobid s = _
  cases hv : cobInvalid s.arg0 <;> simp [execEcobid, badCobId, hv, State.finish]

/-- R161: SCOBID does so with the SYNC COB-ID, and installs. -/
theorem exec_scobid (s : State) : exec .scobid s = .next
    (if badCobId s.params.syncReserved s.arg0 then
      (State.latch { s with syncCobId := cobInvalidate s.arg0 } .syncCobId).install.finish .errCobId
    else (State.install { s with syncCobId := s.arg0 }).finish .ok) := rfl

/-! ### Latching -/

/-- R181: a latch moves FAULT and FAULTNEW alone. -/
theorem latch_eq (s : State) (b : FaultBit) :
    s.latch b = { s with fault := (s.latch b).fault, faultNew := (s.latch b).faultNew } := by
  unfold State.latch
  split <;> rfl

/-- R181: what a latch does to the two fault registers, bit by bit. -/
theorem latched_latch (s : State) (b : FaultBit) : Latched b.pos s (s.latch b) := by
  intro i _
  rw [latch_fault_bit, latch_faultNew_bit, beq_eq_decide]
  exact ⟨rfl, rfl⟩

/-! ### Install (R163) -/

/-- R163: a slot already registered with this COB-ID keeps what it received. -/
theorem installSlot_of_kept {id : CobId} {sl : Slot} (h : sl.id = id) :
    installSlot false id sl = { sl with reg := true, hpRx := true } := by
  simp [installSlot, h]

/-- R163: a new registration, or one with another COB-ID, starts empty. -/
theorem installSlot_of_fresh {fresh : Bool} {id : CobId} {sl : Slot} (h : fresh = true ∨ sl.id ≠ id) :
    installSlot fresh id sl =
      { sl with new := false, ovr := false, len := 0, id := id, reg := true, hpRx := true } := by
  have hcond : (fresh || sl.id != id) = true := by simpa using h
  rw [installSlot, if_pos hcond]

/-- R163: Install is one change of the SYNC slot, and INSTALLED. -/
theorem install_eq (s : State) : s.install =
    { s.modSlot s.params.syncS
        (if s.validIn && !cobInvalid s.syncCobId then installSlot (!s.syncInstalled) (cobId s.syncCobId)
        else removeSlot) with
      syncInstalled := s.validIn && !cobInvalid s.syncCobId } := by
  cases h : s.validIn && !cobInvalid s.syncCobId <;> simp [State.install, h]

@[simp] theorem install_syncInstalled (s : State) :
    s.install.syncInstalled = (s.validIn && !cobInvalid s.syncCobId) := by
  rw [install_eq]

@[simp] theorem install_validIn (s : State) : s.install.validIn = s.validIn := by
  rw [install_eq]; rfl

@[simp] theorem install_syncCobId (s : State) : s.install.syncCobId = s.syncCobId := by
  rw [install_eq]; rfl

@[simp] theorem install_fault (s : State) : s.install.fault = s.fault := by
  rw [install_eq]; rfl

@[simp] theorem install_faultNew (s : State) : s.install.faultNew = s.faultNew := by
  rw [install_eq]; rfl

theorem slots_length_install (s : State) : s.install.slots.length = s.slots.length := by
  rw [install_eq]
  exact modSlot_length ..

/-- R163: Install leaves every other slot alone. -/
theorem slot_install_of_ne (s : State) {k : Nat} (hk : k ≠ s.params.syncS) : s.install.slot k = s.slot k := by
  rw [install_eq]
  exact slot_modSlot_ne _ _ _ hk

/-- R163: the SYNC slot while it is registered. -/
theorem slot_install_of_installed {s : State} (hs : s.params.syncS < s.slots.length)
    (hi : s.install.syncInstalled = true) :
    s.install.slot s.params.syncS = installSlot (!s.syncInstalled) (cobId s.syncCobId) (s.slot s.params.syncS) := by
  rw [install_syncInstalled] at hi
  rw [install_eq, if_pos hi]
  exact (slot_modSlot ..).trans (if_pos ⟨rfl, hs⟩)

/-- R163: the SYNC slot while it is not registered. -/
theorem slot_install_of_removed {s : State} (hs : s.params.syncS < s.slots.length)
    (hi : s.install.syncInstalled = false) : s.install.slot s.params.syncS = removeSlot (s.slot s.params.syncS) := by
  rw [install_syncInstalled] at hi
  rw [install_eq, if_neg (Bool.eq_false_iff.mp hi)]
  exact (slot_modSlot ..).trans (if_pos ⟨rfl, hs⟩)

/-- R163: a command that installs and ends changes what Install changes, and STATUS. -/
theorem installOutcome_install {s : State} (hs : s.params.syncS < s.slots.length) (c : Status) :
    InstallOutcome s (s.install.finish c) := by
  refine ⟨?frame, slots_length_install s, fun k hk => slot_install_of_ne s hk, ?installed,
    fun hi => ⟨fun hkept => ?kept, fun hfresh => ?fresh⟩, fun hi => slot_install_of_removed hs hi⟩
  case frame => rw [install_eq]; rfl
  case installed => rw [install_eq]; rfl
  case kept =>
    rw [finish_syncCobId, install_syncCobId] at hkept
    rw [slot_finish, slot_install_of_installed hs hi, hkept.1]
    exact installSlot_of_kept hkept.2
  case fresh =>
    rw [finish_syncCobId, install_syncCobId] at hfresh ⊢
    rw [slot_finish, slot_install_of_installed hs hi]
    exact installSlot_of_fresh (hfresh.imp_left fun h => by rw [h]; rfl)

theorem ShapeInv.syncS_lt {s : State} (hs : ShapeInv s) : s.params.syncS < s.slots.length := by
  rw [hs.slots, Params.nSlot, Params.syncS, Params.emcyS]
  omega

/-- Before Install a command may set the validity, the COB-ID and the fault bits: `InstallOutcome` has its own. -/
theorem InstallOutcome.of_eq {s u t : State} (h : InstallOutcome u t)
    (hu : u = { s with fault := u.fault, faultNew := u.faultNew, validIn := u.validIn, syncCobId := u.syncCobId }) :
    InstallOutcome s t := by
  rw [hu] at h
  exact h

/-- R162: a three-bit field is 0 when each of its bits is. -/
theorem extractLsb'_three_beq_zero (w : Word) :
    (w.extractLsb' 0 3 == 0) = (!w.getLsbD 0 && !w.getLsbD 1 && !w.getLsbD 2) := by
  have hbits : ∀ x : BitVec 3, (x == 0) = (!x.getLsbD 0 && !x.getLsbD 1 && !x.getLsbD 2) := by decide
  rw [hbits, BitVec.getLsbD_extractLsb', BitVec.getLsbD_extractLsb', BitVec.getLsbD_extractLsb']
  rfl

/-! ### The statements of the COB-IDs and of the SYNC slot -/

/-- Settles O31: a word that is not refused is stored as it is; a refused one is stored with INVALID set, and
only the EMCY_COBID latch and STATUS change besides. -/
theorem emcyCobIdRule : Obligations.EmcyCobIdRule := by
  intro s
  rw [exec_ecobid]
  refine ⟨fun hgood => by rw [badCobId_eq_false hgood]; rfl, fun hv hbad => ?_⟩
  rw [if_pos (badCobId_eq_true hv hbad)]
  refine ⟨_, rfl, latched_latch { s with emcyCobId := cobInvalidate s.arg0 } .emcyCobId, ?_⟩
  exact congrArg (State.finish · .errCobId) (latch_eq { s with emcyCobId := cobInvalidate s.arg0 } .emcyCobId)

/-- Settles O34: SCOBID stores the word, latches when it is refused, and installs. -/
theorem syncCobIdRule : Obligations.SyncCobIdRule := by
  intro s hs
  rw [exec_scobid]
  refine ⟨fun hgood => ?stored, fun hv hbad => ?refused⟩
  case stored =>
    rw [badCobId_eq_false hgood]
    exact ⟨_, rfl, rfl, install_syncCobId _, install_validIn _, install_fault _, install_faultNew _,
      (installOutcome_install (s := { s with syncCobId := s.arg0 }) hs.syncS_lt .ok).of_eq rfl⟩
  case refused =>
    let u : State := { s with syncCobId := cobInvalidate s.arg0 }
    have hlen : (u.latch .syncCobId).params.syncS < (u.latch .syncCobId).slots.length := by
      rw [latch_params, latch_slots]
      exact hs.syncS_lt
    rw [if_pos (badCobId_eq_true hv hbad)]
    refine ⟨_, rfl, rfl, ?cobId, ?validIn, ?removed, fun i hi => ?latched,
      (installOutcome_install hlen .errCobId).of_eq ?frame⟩
    case cobId => exact (install_syncCobId _).trans (latch_syncCobId ..)
    case validIn => exact (install_validIn _).trans (latch_validIn ..)
    case removed =>
      rw [finish_syncInstalled, install_syncInstalled, latch_syncCobId, cobInvalid_cobInvalidate, Bool.not_true,
        Bool.and_false]
    case latched =>
      rw [finish_fault, finish_faultNew, install_fault, install_faultNew]
      exact latched_latch u .syncCobId i hi
    case frame =>
      rw [latch_validIn, latch_syncCobId]
      exact latch_eq u .syncCobId

/-- Settles O35: SVALID sets VALID_IN and installs. -/
theorem syncValidityRule : Obligations.SyncValidityRule := by
  intro s hs
  exact ⟨_, rfl, rfl, (install_validIn _).trans (extractLsb'_three_beq_zero s.arg0), install_syncCobId _,
    install_fault _, install_faultNew _,
    (installOutcome_install (s := { s with validIn := s.arg0.extractLsb' 0 3 == 0 }) hs.syncS_lt .ok).of_eq rfl⟩

end Sys2Proof.Machine
end

section
/-! Proofs about the control commands (44_control.md R171 to R173). The idea: FACK and FCLR both leave FAULTNEW 0, and
the interrupt output needs a bit of FAULTNEW. -/

namespace Sys2Proof.Machine

/-- R171: NOP only reports OK. -/
theorem exec_nop (s : State) : exec .nop s = .next (s.finish .ok) := rfl

/-- R172: FACK moves FAULTNEW to the result. -/
theorem exec_fack (s : State) : exec .fack s =
    .next (State.finish { s with res0 := s.faultNew.setWidth 32, res1 := 0, faultNew := 0 } .ok) := rfl

/-- R173: FCLR clears both fault registers. -/
theorem exec_fclr (s : State) : exec .fclr s = .next (State.finish { s with fault := 0, faultNew := 0 } .ok) := rfl

/-- R172: bit by bit, FAULTNEW zero-extended to a register is its five bits and then zeros. -/
theorem getLsbD_setWidth_word (v : BitVec 5) {b : Nat} (hb : b < 32) :
    (v.setWidth 32).getLsbD b = (decide (b < 5) && v.getLsbD b) := by
  rw [BitVec.getLsbD_setWidth, decide_eq_true hb, Bool.true_and]
  by_cases h5 : b < 5
  · rw [decide_eq_true h5, Bool.true_and]
  · rw [decide_eq_false h5, Bool.false_and, BitVec.getLsbD_of_ge _ _ (Nat.le_of_not_lt h5)]

/-- R183: with nothing newly latched the interrupt output is 0, whatever IRQEN enables. -/
theorem irq_eq_false_of_faultNew_eq_zero {s : State} (h : s.faultNew = 0) : s.irq = false := by
  simp [State.irq, h]

/-- FACK and FCLR end with FAULTNEW 0 (R172, R173). -/
theorem faultNew_eq_zero_of_fack_or_fclr {s t : State} (h : exec .fack s = .next t ∨ exec .fclr s = .next t) :
    t.faultNew = 0 := by
  rw [exec_fack, exec_fclr] at h
  rcases h with hfack | hfclr
  · cases hfack
    rfl
  · cases hfclr
    rfl

/-- Settles O36: each command is its equation, and the output is 0 because FAULTNEW is. -/
theorem controlCommands : Obligations.ControlCommands := fun s =>
  ⟨exec_nop s, ⟨_, fun _ hb => getLsbD_setWidth_word s.faultNew hb, exec_fack s⟩, exec_fclr s,
    fun _ h => irq_eq_false_of_faultNew_eq_zero (faultNew_eq_zero_of_fack_or_fclr h)⟩

end Sys2Proof.Machine
end

section
/-! Proofs about the encoder (30_encoding.md R78, R81, R84). The idea: the fields of a well-formed command's word are
the command's operands, because the word is OP and the operands in their places with no carry between them. -/

namespace Sys2Proof

/-! ### A command's word -/

/-- R78: the word of a well-formed command has its row's OP. -/
theorem opField_encode {i : Instr} (h : i.wellFormed = true) :
    opField (encode i) = opcodeOf i ∧ (encode i).toNat = opcodeOf i + operandBits i := by
  cases i with
  | nop => exact Laws.Opcode.nop h
  | fget slot boff blen => exact Laws.Opcode.fget slot boff blen h
  | fput slot boff blen => exact Laws.Opcode.fput slot boff blen h
  | pcreate => exact Laws.Opcode.pcreate h
  | pdestroy => exact Laws.Opcode.pdestroy h
  | ptxreq tpdo => exact Laws.Opcode.ptxreq tpdo h
  | ptask => exact Laws.Opcode.ptask h
  | ealarm code => exact Laws.Opcode.ealarm code h
  | eclear => exact Laws.Opcode.eclear h
  | eforce => exact Laws.Opcode.eforce h
  | ecobid => exact Laws.Opcode.ecobid h
  | scobid => exact Laws.Opcode.scobid h
  | svalid => exact Laws.Opcode.svalid h
  | fack => exact Laws.Opcode.fack h
  | fclr => exact Laws.Opcode.fclr h

/-- R80: a field of a word is its number cut to the field. -/
theorem wordField_eq (c : Word) (lo width : Nat) : wordField c lo width = c.toNat / 2 ^ lo % 2 ^ width := by
  rw [wordField, BitVec.extractLsb'_toNat, Nat.shiftRight_eq_div_pow]

/-- R78: the operands of format F are read back from their sum. -/
theorem formatF_fields {c : Word} {op slot boff blen : Nat} (hop : op < 2 ^ 8) (hslot : slot < 2 ^ 8)
    (hboff : boff < 2 ^ 6) (hblen : blen < 2 ^ 7)
    (hc : c.toNat = op + (slot * 2 ^ 8 + boff * 2 ^ 16 + blen * 2 ^ 22)) :
    idxField c = slot ∧ boffField c = boff ∧ blenField c = blen := by
  simp only [idxField, boffField, blenField, wordField_eq, hc]
  omega

/-- R78, R80: reading the operands of a well-formed command back from its word gives the command. -/
theorem reread_encode {i : Instr} (h : i.wellFormed = true) : i.reread (encode i) = i := by
  obtain ⟨-, hc⟩ := opField_encode h
  cases i
  case fget slot boff blen | fput slot boff blen =>
    simp only [Instr.wellFormed, idxFits, boffFits, blenFits, Bool.and_eq_true, decide_eq_true_eq] at h
    obtain ⟨hidx, hboff, hblen⟩ := formatF_fields (by simp [opcodeOf]) h.1.1 h.1.2 h.2 hc
    simp only [Instr.reread, hidx, hboff, hblen]
  case ptxreq tpdo =>
    simp only [Instr.wellFormed, idxFits, decide_eq_true_eq] at h
    have hidx : idxField (encode (.ptxreq tpdo)) = tpdo := by
      simp only [idxField, wordField_eq, hc, opcodeOf, operandBits]
      omega
    simp only [Instr.reread, hidx]
  case ealarm code =>
    have himm : imm16Field (encode (.ealarm code)) = code := by
      have := code.isLt
      apply BitVec.eq_of_toNat_eq
      simp only [toNat_imm16Field, wordField_eq, hc, opcodeOf, operandBits]
      omega
    simp only [Instr.reread, himm]
  all_goals rfl

/-! ### The statements of the encoder -/

/-- Settles O2: OP selects the command's row, and the fields of the word are its operands. -/
theorem decodeEncodeRoundTrip : Obligations.DecodeEncodeRoundTrip := by
  intro i h
  rw [decode_of_opField (opField_encode h).1, reread_encode h]

/-- Settles O1: each word is a literal. -/
theorem decodeReadsTheOpcodeMap : Obligations.DecodeReadsTheOpcodeMap := by
  unfold Obligations.DecodeReadsTheOpcodeMap
  decide

end Sys2Proof
end

section
/-! Proofs about one step (60_exceptions.md R186 to R203). The idea: a step waits, drops a request that is not enabled,
or performs an enabled one; what a command and what an agent's step can do is then said once per case. -/

namespace Sys2Proof.Machine

/-! ### The address of CMD -/

theorem mem_coreMap_of_lookup {a : Nat} {r : CoreReg} (h : coreMap.lookup a = some r) : (a, r) ∈ coreMap := by
  obtain ⟨l, l', hl, -⟩ := List.lookup_eq_some_iff.1 h
  rw [hl]
  exact List.mem_append_right _ (List.mem_cons_self ..)

/-- R26, R27: CMD is at its address and nowhere else. -/
theorem regAt_eq_cmd_iff {p : Params} {a : BitVec 16} : regAt p a = some (.core .cmd) ↔ a = cmdAddr := by
  constructor
  · intro h
    have hcore : coreMap.lookup a.toNat = some .cmd := by
      unfold regAt at h
      split at h
      · cases h
      · split at h
        · simpa using h
        · revert h
          unfold rxBlock txBlock slotWindow
          split_ifs <;> simp
    apply BitVec.eq_of_toNat_eq
    change a.toNat = 0x004
    simpa [coreMap] using mem_coreMap_of_lookup hcore
  · rintro rfl
    rfl

/-! ### A step by its cases -/

/-- The state an enabled step is performed on: the request is off the schedule and answered (R191). -/
def State.begin (s : State) (xs : List Input) : State := { s with inputs := xs, response := .taken }

/-- R191: an enabled request is performed. -/
theorem step_of_enabled {s : State} {x : Input} {xs : List Input} (hs : s.inputs = x :: xs)
    (he : enabled x s = true) : step s = perform x (s.begin xs) := by
  have he' : enabled x { s with inputs := xs } = true := by cases x <;> exact he
  simp only [step, runNext, hs, runInput, he', if_true]
  rfl

/-- R75, R191: a request that is not enabled is dropped, and only the answer says so. -/
theorem step_of_not_enabled {s : State} {x : Input} {xs : List Input} (hs : s.inputs = x :: xs)
    (he : enabled x s = false) : step s = .next { s with inputs := xs, response := .notEnabled } := by
  have he' : enabled x { s with inputs := xs } = false := by cases x <;> exact he
  simp only [step, runNext, hs, runInput, he', Bool.false_eq_true, if_false]
  rfl

/-- R191, R208: what a step can be. -/
theorem step_cases (s : State) :
    (s.inputs = [] ∧ step s = .next s) ∨ ∃ x xs, s.inputs = x :: xs ∧
      ((enabled x s = false ∧ step s = .next { s with inputs := xs, response := .notEnabled }) ∨
        (enabled x s = true ∧ step s = perform x (s.begin xs))) := by
  cases hs : s.inputs with
  | nil => exact .inl ⟨rfl, by simp [step, runNext, hs]⟩
  | cons x xs =>
    refine .inr ⟨x, xs, rfl, ?_⟩
    cases he : enabled x s with
    | false => exact .inl ⟨rfl, step_of_not_enabled hs he⟩
    | true => exact .inr ⟨rfl, step_of_enabled hs he⟩

/-- A property of the next state that holds of waiting and of a dropped request, and of every performed one. -/
theorem step_induction {s t : State} {P : State → Prop} (h : step s = .next t) (hwait : P s)
    (hdrop : ∀ x xs, s.inputs = x :: xs → P { s with inputs := xs, response := .notEnabled })
    (hperform : ∀ x xs, s.inputs = x :: xs → enabled x s = true → perform x (s.begin xs) = .next t → P t) : P t := by
  rcases step_cases s with ⟨-, hs⟩ | ⟨x, xs, hx, ⟨-, hs⟩ | ⟨he, hs⟩⟩
  · rw [hs] at h; cases h; exact hwait
  · rw [hs] at h; cases h; exact hdrop x xs hx
  · exact hperform x xs hx he (hs ▸ h)

/-! ### A host register write by its cases -/

theorem hostWrite_of_cmd (v : Word) (s : State) :
    hostWrite cmdAddr .w32 v s = runCommand v (s.answer .written) := by
  simp only [hostWrite, regAt_eq_cmd_iff.2 rfl]

theorem hostWrite_of_reg {a : BitVec 16} {s : State} {r : Reg} (hr : regAt s.params a = some r)
    (hne : r ≠ .core .cmd) (v : Word) : hostWrite a .w32 v s = .next ((s.writeReg r v).answer .written) := by
  unfold hostWrite
  split
  next h => rw [hr] at h; exact absurd (Option.some.inj h) hne
  next h => rw [hr] at h; cases h; rfl
  next h => exact absurd hr (h r rfl)

theorem hostWrite_of_busError {a : BitVec 16} {w : AccessWidth} {s : State}
    (h : w ≠ .w32 ∨ regAt s.params a = none) (v : Word) : hostWrite a w v s = .next (s.answer .busError) := by
  unfold hostWrite
  split
  next hr => simp [hr] at h
  next hr => simp [hr] at h
  next => rfl

/-- R62, R84, R175: a register write runs a command, stores to another register, or is a bus error. -/
theorem hostWrite_cases (a : BitVec 16) (w : AccessWidth) (v : Word) (s : State) :
    ((Input.hostWrite a w v).commandWord = some v ∧ hostWrite a w v s = runCommand v (s.answer .written)) ∨
      ((Input.hostWrite a w v).commandWord = none ∧
        ((∃ r, hostWrite a w v s = .next ((s.writeReg r v).answer .written)) ∨
          hostWrite a w v s = .next (s.answer .busError))) := by
  cases w with
  | w8 => exact .inr ⟨rfl, .inr rfl⟩
  | w16 => exact .inr ⟨rfl, .inr rfl⟩
  | w32 =>
    by_cases ha : a = cmdAddr
    · subst ha
      exact .inl ⟨rfl, hostWrite_of_cmd v s⟩
    · refine .inr ⟨if_neg ha, ?_⟩
      cases hr : regAt s.params a with
      | none => exact .inr (hostWrite_of_busError (.inr hr) v)
      | some r =>
        exact .inl ⟨r, hostWrite_of_reg hr (fun h => ha (regAt_eq_cmd_iff.1 (h ▸ hr))) v⟩

/-- R84, R86: a command word runs its command, or ends ILLEGAL. -/
theorem runCommand_cases (c : Word) (s : State) :
    (∃ i, decode c = .ok i ∧ runCommand c s = exec i s) ∨
      ((∀ i, decode c ≠ .ok i) ∧ runCommand c s = .next (s.finish .illegal)) := by
  cases h : decode c with
  | ok i => exact .inl ⟨i, rfl, by simp [runCommand, h]⟩
  | error e => exact .inr ⟨by simp, by simp [runCommand, h]⟩

/-! ### PCREATE and PTASK by their cases -/

/-- R102: PCREATE is refused with an active set or a TPDO frame on the bus; else the compiler decides. -/
theorem exec_pcreate_cases (s : State) :
    (s.active = true ∧ exec .pcreate s = .next (s.finish .errState)) ∨
      (s.active = false ∧ ¬ s.noneSending ∧ exec .pcreate s = .next (s.finish .busy)) ∨
      (s.active = false ∧ s.noneSending ∧
        ((∃ f, compileSet s.params s.defRx s.defTx = .error f ∧ exec .pcreate s = .next (s.failCreate f)) ∨
          ∃ st, compileSet s.params s.defRx s.defTx = .ok st ∧
            exec .pcreate s = .next ((s.commit st).finish .ok))) := by
  change (_ ∧ execPcreate s = _) ∨ (_ ∧ _ ∧ execPcreate s = _) ∨
    (_ ∧ _ ∧ ((∃ f, _ ∧ execPcreate s = _) ∨ ∃ st, _ ∧ execPcreate s = _))
  unfold execPcreate
  cases ha : s.active with
  | true => exact .inl ⟨rfl, rfl⟩
  | false =>
    rw [← someTxSending_eq_false_iff]
    cases hn : s.someTxSending with
    | true => exact .inr (.inl ⟨rfl, by simp, rfl⟩)
    | false =>
      refine .inr (.inr ⟨rfl, rfl, ?_⟩)
      cases hc : compileSet s.params s.defRx s.defTx with
      | error f => exact .inl ⟨f, rfl, rfl⟩
      | ok st => exact .inr ⟨st, rfl, rfl⟩

/-- R144, R146: PTASK is the asynchronous pass of an active set. -/
theorem exec_ptask_cases {s t : State} (h : exec .ptask s = .next t) :
    (s.active = true ∧ ∃ u, asyncPass s = .next u ∧ t = u.finish .ok) ∨ (s.active = false ∧ t = s.finish .ok) := by
  change execPtask s = _ at h
  unfold execPtask at h
  split at h
  next ha =>
    obtain ⟨u, hu, ht⟩ := andThen_next h
    cases ht
    exact .inl ⟨ha, u, hu, rfl⟩
  next ha =>
    cases h
    exact .inr ⟨Bool.eq_false_iff.mpr ha, rfl⟩

/-! ### The statement about the command a step runs -/

/-- Settles O5: the request is enabled and addresses CMD, so the step is the command word's. -/
theorem stepRunsTheDecodedCommand : Obligations.StepRunsTheDecodedCommand := by
  intro s c xs hs
  have hstep : step s = runCommand c { s with inputs := xs, response := .written } :=
    (step_of_enabled hs rfl).trans (hostWrite_of_cmd c _)
  constructor
  · intro i hi
    rw [hstep, runCommand, hi]
  · intro e he
    rw [hstep, runCommand, he]
    rfl

end Sys2Proof.Machine
end

section
/-! Proofs that every step keeps the invariants (10_state.md R52). The idea: each command and each agent's step is a
composition of the shared operations, and each of those keeps Inv (Laws/Invariants). -/

namespace Sys2Proof.Machine

/-! ### Reset (R206, R207) -/

theorem getD_replicate {α : Type} (n k : Nat) (a : α) : (List.replicate n a).getD k a = a := by
  rw [List.getD_eq_getElem?_getD, List.getElem?_replicate]
  split <;> rfl

@[simp] theorem slot_resetWith (p : Params) (k : Nat) : (State.resetWith p).slot k = Slot.reset := getD_replicate ..
@[simp] theorem rxEntry_resetWith (p : Params) (i : Nat) : (State.resetWith p).rxEntry i = none := getD_replicate ..
@[simp] theorem txEntry_resetWith (p : Params) (j : Nat) : (State.resetWith p).txEntry j = none := getD_replicate ..
@[simp] theorem rxDef_resetWith (p : Params) (i : Nat) : (State.resetWith p).rxDef i = PdoDef.reset := getD_replicate ..
@[simp] theorem txDef_resetWith (p : Params) (j : Nat) : (State.resetWith p).txDef j = TxDef.reset := getD_replicate ..

theorem shapeInv_resetWith {p : Params} (hp : p.wf) : ShapeInv (State.resetWith p) where
  params := hp
  slots := List.length_replicate
  defRx := List.length_replicate
  defTx := List.length_replicate
  crx := List.length_replicate
  ctx := List.length_replicate
  rxCnt := List.length_replicate
  txCnt := List.length_replicate
  len k _ := by rw [slot_resetWith]; exact Nat.zero_le 8
  mem := rfl

theorem compiledInv_resetWith (p : Params) : CompiledInv (State.resetWith p) where
  rx c hc e he := by cases List.eq_of_mem_replicate hc; cases he
  tx c hc e he := by cases List.eq_of_mem_replicate hc; cases he
  capacity := by simp [State.elemCount, State.resetWith]

theorem chainInv_resetWith (p : Params) : ChainInv (State.resetWith p) where
  inactive _ := ⟨fun _ => List.eq_of_mem_replicate, fun _ => List.eq_of_mem_replicate, rfl, rfl⟩
  queued j hj := by cases hj
  nodup := List.nodup_nil
  filling j _ h := by rw [slot_resetWith] at h; cases h
  current j hj := by cases hj
  idle k _ h := by rw [slot_resetWith] at h; exact absurd rfl h
  emcy := by rw [slot_resetWith]; decide
  withdrawn _ j _ := by rw [slot_resetWith]; decide
  chained j _ h := by rw [slot_resetWith] at h; cases h

theorem regInv_resetWith (p : Params) : RegInv (State.resetWith p) where
  overrun k _ h := by rw [slot_resetWith] at h; cases h
  received k _ h := by rw [slot_resetWith] at h; cases h
  requested k _ h := by rw [slot_resetWith] at h; cases h
  rxReg i _ := by rw [slot_resetWith, rxEntry_resetWith]; rfl
  txRtr j _ h := by rw [slot_resetWith] at h; cases h
  regOnly k _ h := by rw [slot_resetWith] at h; cases h
  rtrRegOnly k _ h := by rw [slot_resetWith] at h; cases h
  syncReg := by rw [slot_resetWith]; rfl
  hpRx k _ := by rw [slot_resetWith]; rfl
  vhpRx k _ := by rw [slot_resetWith]; rfl
  installed := rfl
  syncId h := by cases h
  faults := BitVec.zero_and

theorem inv_resetWith {p : Params} (hp : p.wf) : Inv (State.resetWith p) where
  shape := shapeInv_resetWith hp
  compiled := compiledInv_resetWith p
  chain := chainInv_resetWith p
  reg := regInv_resetWith p
  emcy := ⟨fun h => by rw [slot_resetWith] at h; exact absurd rfl h⟩

/-! ### The passes -/

theorem asyncPass_inv {s t : State} (hi : Inv s) (h : asyncPass s = .next t) : Inv t := by
  obtain ⟨u, hu, ht⟩ := andThen_next h
  exact forEach_Inv (fun _ _ _ => asyncTxIf_inv) (forEach_Inv (fun _ _ _ => decodeIfNew_inv) hi hu) ht

theorem syncPass_inv {s t : State} (hi : Inv s) (h : syncPass s = .next t) : Inv t := by
  obtain ⟨u, hu, ht⟩ := andThen_next h
  obtain ⟨v, hv, ht⟩ := andThen_next ht
  cases ht
  exact issueChain_inv
    (forEach_Inv (fun _ _ _ => syncTxIf_inv) (forEach_Inv (fun _ _ _ => decodeIfNew_inv) hi hu) hv)

theorem rtStep_inv {s t : State} (hi : Inv s) (h : rtStep s = .next t) : Inv t := by
  unfold rtStep at h
  split at h
  · exact syncPass_inv (consumeNew_inv hi _) h
  · cases h; exact consumeNew_inv hi _

/-! ### Commands -/

theorem fput_inv {s : State} (hi : Inv s) (slot : Nat) (v : DWord) (boff blen : Nat)
    (hfree : ¬((s.slot slot).txst = .ready ∨ (s.slot slot).txst = .sending)) :
    Inv (s.modSlot slot fun sl => { sl with data := putBits (s.slot slot).data boff blen v }) := by
  refine hi.slot _ _ ⟨id, rfl, rfl, rfl, rfl, rfl, rfl, id, id, id, fun hframe hk hidle => ?_⟩
  have hemcy := hi.chain.emcy
  rw [← hk] at hemcy
  cases htx : (s.slot slot).txst with
  | idle => exact absurd htx hidle
  | filling => exact absurd htx hemcy
  | ready => exact absurd (.inl htx) hfree
  | sending => exact absurd (.inr htx) hfree

/-- The end of an EMCY command keeps Inv when its registers' update does. -/
theorem emcyEnd_inv {s u : State} (hs : Inv s) (hu : Inv u) (hslots : u.slots = s.slots)
    (hparams : u.params = s.params) : Inv (s.emcyEnd u) := by
  unfold State.emcyEnd
  split
  · exact finish_inv hu _
  · split
    · exact finish_inv hs _
    · rename_i hgate
      refine finish_inv (composeEmcy_inv hu ?_) _
      rw [hparams, slot_congr hslots]
      simp only [State.gateOpen, Bool.not_eq_true', Bool.not_eq_false, Bool.and_eq_true, beq_iff_eq] at hgate
      exact hgate.1

theorem exec_pcreate_inv {s t : State} (hi : Inv s) (h : exec .pcreate s = .next t) : Inv t := by
  rcases exec_pcreate_cases s with ⟨-, hp⟩ | ⟨-, -, hp⟩ | ⟨ha, hn, ⟨f, -, hp⟩ | ⟨st, hst, hp⟩⟩ <;> rw [hp] at h <;> cases h
  · exact finish_inv hi _
  · exact finish_inv hi _
  · have hcfg : Inv { s with cfgErr := f.word } := hi.quiet (by constructor <;> rfl) hi.reg.faults
    exact finish_inv (latch_inv hcfg .pdoCfg) .cfgFail
  · exact finish_inv (commit_inv hi ha (someTxSending_eq_false_iff.mpr hn) hst) _

theorem exec_scobid_inv {s t : State} (hi : Inv s) (h : exec .scobid s = .next t) : Inv t := by
  rw [exec_scobid] at h
  cases h
  split
  · have hl : State.latch { s with syncCobId := cobInvalidate s.arg0 } .syncCobId =
        { s.latch .syncCobId with syncCobId := cobInvalidate s.arg0, validIn := (s.latch .syncCobId).validIn } := by
      unfold State.latch
      split <;> rfl
    rw [hl]
    exact finish_inv (install_inv (latch_inv hi _) _ _) _
  · exact finish_inv (install_inv hi s.arg0 s.validIn) _

/-- Every command keeps Inv. -/
theorem exec_inv {i : Instr} {s t : State} (hi : Inv s) (h : exec i s = .next t) : Inv t := by
  cases i with
  | nop => cases h; exact finish_inv hi _
  | fget slot boff blen =>
    rw [exec_fget] at h
    cases h
    split
    · exact finish_inv hi _
    · exact hi.quiet (by constructor <;> rfl) hi.reg.faults
  | fput slot boff blen =>
    rw [exec_fput] at h
    cases h
    split
    · exact finish_inv hi _
    · split
      · exact finish_inv hi _
      · exact finish_inv (fput_inv hi slot _ boff blen ‹_›) _
  | pcreate => exact exec_pcreate_inv hi h
  | pdestroy =>
    cases h
    refine finish_inv ?_ _
    split
    · exact destroy_inv hi
    · exact hi
  | ptxreq tpdo =>
    cases h
    split
    · exact finish_inv hi _
    · split
      · exact finish_inv hi _
      · exact finish_inv (modTx_inv hi tpdo (fun c => { c with req := true }) fun _ _ => ⟨rfl, rfl, id⟩) .ok
  | ptask =>
    rcases exec_ptask_cases h with ⟨-, u, hu, rfl⟩ | ⟨-, rfl⟩
    · exact finish_inv (asyncPass_inv hi hu) _
    · exact finish_inv hi _
  | ealarm code =>
    rw [exec_ealarm] at h
    cases h
    split
    · exact finish_inv hi _
    · exact emcyEnd_inv hi (hi.quiet (by constructor <;> rfl) hi.reg.faults) rfl rfl
  | eclear =>
    rw [exec_eclear] at h
    cases h
    split
    · exact finish_inv hi _
    · exact emcyEnd_inv hi (hi.quiet (by constructor <;> rfl) hi.reg.faults) rfl rfl
  | eforce =>
    rw [exec_eforce] at h
    cases h
    split
    · exact finish_inv hi _
    · exact emcyEnd_inv hi hi rfl rfl
  | ecobid =>
    rw [exec_ecobid] at h
    cases h
    split
    · have hcob : Inv { s with emcyCobId := cobInvalidate s.arg0 } :=
        hi.quiet (by constructor <;> rfl) hi.reg.faults
      exact finish_inv (latch_inv hcob .emcyCobId) .errCobId
    · exact hi.quiet (by constructor <;> rfl) hi.reg.faults
  | scobid => exact exec_scobid_inv hi h
  | svalid => cases h; exact finish_inv (install_inv hi s.syncCobId _) _
  | fack => cases h; exact hi.quiet (by constructor <;> rfl) BitVec.zero_and
  | fclr => cases h; exact hi.quiet (by constructor <;> rfl) BitVec.zero_and

theorem runCommand_inv {c : Word} {s t : State} (hi : Inv s) (h : runCommand c s = .next t) : Inv t := by
  rcases runCommand_cases c s with ⟨i, -, hc⟩ | ⟨-, hc⟩
  · exact exec_inv hi (hc ▸ h)
  · rw [hc] at h; cases h; exact finish_inv hi _

/-! ### The agents' steps -/

theorem hostWrite_inv {a : BitVec 16} {w : AccessWidth} {v : Word} {s t : State} (hi : Inv s)
    (h : hostWrite a w v s = .next t) : Inv t := by
  rcases hostWrite_cases a w v s with ⟨-, hc⟩ | ⟨-, ⟨r, hc⟩ | hc⟩
  · exact runCommand_inv (answer_inv hi _) (hc ▸ h)
  · rw [hc] at h; cases h; exact answer_inv (writeReg_inv hi r v) _
  · rw [hc] at h; cases h; exact answer_inv hi _

/-- R36, R52: only RPDO slots and the SYNC slot receive, so the EMCY slot never does. -/
theorem Inv.emcyS_not_reg {s : State} (hi : Inv s) : (s.slot s.params.emcyS).reg = false := by
  cases hreg : (s.slot s.params.emcyS).reg with
  | false => rfl
  | true =>
    have := hi.reg.regOnly _ (emcyS_lt s.params) hreg
    simp only [Params.syncS, Params.emcyS] at this
    omega

theorem evRx_inv {k : Nat} {bytes : List Byte} {s : State} (hi : Inv s) (he : enabled (.evRx k bytes) s = true) :
    Inv (evRx k bytes s) := by
  simp only [enabled, Bool.and_eq_true, decide_eq_true_eq] at he
  refine hi.slot _ _ ⟨fun _ => he.2, rfl, rfl, rfl, rfl, rfl, rfl, fun _ _ => rfl, fun _ _ => he.1, id,
    fun _ hk => ?_⟩
  rw [hk, hi.emcyS_not_reg] at he
  cases he.1

theorem evTake_inv {k : Nat} {s : State} (hi : Inv s) (he : enabled (.evTake k) s = true) : Inv (evTake k s) := by
  simp only [enabled, Bool.and_eq_true, beq_iff_eq] at he
  refine txst_inv hi (fun sl => { sl with txst := .sending }) rfl (fun _ => rfl) (fun _ hk => ?_)
    (evTake_chain hi.shape hi.chain he.1)
  rw [← hk, he.1]
  decide

theorem evDone_inv {k : Nat} {ok : Bool} {s : State} (hi : Inv s) (he : enabled (.evDone k ok) s = true) :
    Inv (evDone k ok s) := by
  simp only [enabled, beq_iff_eq] at he
  have hfreed := txst_inv hi (fun sl => { sl with txst := .idle, txOk := ok }) rfl (fun _ => rfl)
    (fun h => absurd rfl h) (evDone_chain hi.shape hi.chain ok he)
  rw [advance_eq]
  by_cases hk : s.chainCur.map s.params.slotTx = some k
  · rw [if_pos hk]
    exact issueChain_inv hfreed
  · rw [if_neg hk]
    exact hfreed

theorem resetBlock_inv {s : State} (hi : Inv s) : Inv (resetBlock s) :=
  answer_inv (inputs_inv (mem_inv (inv_resetWith hi.shape.params) hi.shape.mem) s.inputs) s.response

/-- Every enabled agent's step keeps Inv. -/
theorem perform_inv {x : Input} {s t : State} (hi : Inv s) (he : enabled x s = true)
    (h : perform x s = .next t) : Inv t := by
  cases x with
  | hostRead addr width =>
    cases h
    unfold hostRead
    split <;> exact answer_inv hi _
  | hostWrite addr width v => exact hostWrite_inv hi h
  | rtStep => exact rtStep_inv hi h
  | evRx k bytes => cases h; exact evRx_inv hi he
  | evRtr k =>
    cases h
    exact hi.slot _ _ ⟨id, rfl, rfl, rfl, rfl, rfl, rfl, id, id, fun _ _ => he, fun h _ => h⟩
  | evTake k => cases h; exact evTake_inv hi he
  | evDone k ok => cases h; exact evDone_inv hi he
  | evInh k b => cases h; exact hi.slot _ _ ⟨id, rfl, rfl, rfl, rfl, rfl, rfl, id, id, id, fun h _ => h⟩
  | evBlk k b => cases h; exact hi.slot _ _ ⟨id, rfl, rfl, rfl, rfl, rfl, rfl, id, id, id, fun h _ => h⟩
  | app a w v => cases h; exact mem_inv hi (writeBytes_wf _ _ _ hi.shape.mem)
  | resetInput => cases h; exact resetBlock_inv hi

theorem begin_inv {s : State} (hi : Inv s) (xs : List Input) : Inv (s.begin xs) :=
  answer_inv (inputs_inv hi xs) .taken

@[simp] theorem enabled_begin (x : Input) (s : State) (xs : List Input) : enabled x (s.begin xs) = enabled x s := by
  cases x <;> rfl

/-- R52: every step keeps Inv. -/
theorem step_inv {s t : State} (hi : Inv s) (h : step s = .next t) : Inv t :=
  step_induction h hi (fun _ xs _ => answer_inv (inputs_inv hi xs) .notEnabled)
    fun x xs _ he => perform_inv (begin_inv hi xs) ((enabled_begin x s xs).trans he)

/-! ### The statements about the invariants -/

/-- Settles O47. -/
theorem resetMeetsTheInvariants : Obligations.ResetMeetsTheInvariants := fun _ => inv_resetWith

/-- Settles O48: it is a part of Inv. -/
theorem stepKeepsTheShape : Obligations.StepKeepsTheShape := fun _ _ hi h => (step_inv hi h).shape

/-- Settles O49: it is a part of Inv. -/
theorem stepKeepsTheCompiledSet : Obligations.StepKeepsTheCompiledSet := fun _ _ hi h => (step_inv hi h).compiled

/-- Settles O50: it is a part of Inv. -/
theorem stepKeepsTheChain : Obligations.StepKeepsTheChain := fun _ _ hi h => (step_inv hi h).chain

/-- Settles O51: it is a part of Inv. -/
theorem stepKeepsTheRegistrations : Obligations.StepKeepsTheRegistrations := fun _ _ hi h => (step_inv hi h).reg

/-- Settles O52: it is a part of Inv. -/
theorem stepKeepsTheEmcyFrame : Obligations.StepKeepsTheEmcyFrame := fun _ _ hi h => (step_inv hi h).emcy

end Sys2Proof.Machine
end

section
/-! Proofs about the ownership of slots (10_state.md R39). The idea: apart from PDESTROY, EV_TAKE, EV_DONE and the reset,
whatever moves a slot's TXST moves it forward along Idle, Filling, Ready, and only from Idle does it touch the frame;
that relation composes, so it holds of a whole step when it holds of its parts. -/

namespace Sys2Proof.Machine

/-! ### A slot that moves towards the transport -/

/-- TXST stays or moves forward along Idle, Filling, Ready, and a frame the transport owns is left alone (R39). -/
structure Slot.Advances (a b : Slot) : Prop where
  txst   : b.txst = a.txst ∨ (a.txst = .idle ∧ (b.txst = .filling ∨ b.txst = .ready)) ∨
    (a.txst = .filling ∧ b.txst = .ready)
  frozen : a.transportOwned = true → b.id = a.id ∧ b.len = a.len ∧ b.data = a.data ∧ b.inht = a.inht

theorem Slot.Advances.refl (a : Slot) : a.Advances a := ⟨.inl rfl, fun _ => ⟨rfl, rfl, rfl, rfl⟩⟩

/-- A slot that is not the transport's may change its frame. -/
theorem Slot.Advances.of_idle {a b : Slot} (ha : a.txst = .idle) (hb : b.txst ≠ .sending) : a.Advances b := by
  refine ⟨?_, fun howned => ?_⟩
  · cases h : b.txst with
    | idle => exact .inl ha.symm
    | filling => exact .inr (.inl ⟨ha, .inl rfl⟩)
    | ready => exact .inr (.inl ⟨ha, .inr rfl⟩)
    | sending => exact absurd h hb
  · rw [Slot.transportOwned_iff, ha] at howned
    simp at howned

theorem Slot.Advances.owned {a b : Slot} (h : a.Advances b) (ha : a.transportOwned = true) : b.transportOwned = true := by
  have hb : b.txst = a.txst := by
    rcases h.txst with hb | ⟨hidle, -⟩ | ⟨hfill, -⟩
    · exact hb
    · rw [Slot.transportOwned, hidle] at ha; cases ha
    · rw [Slot.transportOwned, hfill] at ha; cases ha
  rw [Slot.transportOwned, hb]
  exact ha

theorem Slot.Advances.trans {a b c : Slot} (h1 : a.Advances b) (h2 : b.Advances c) : a.Advances c := by
  refine ⟨?_, fun ha => ?_⟩
  · rcases h1.txst with hb | ⟨ha, hb⟩ | ⟨ha, hb⟩ <;> rcases h2.txst with hc | ⟨hb', hc⟩ | ⟨hb', hc⟩ <;> simp_all
  · obtain ⟨hid, hlen, hdata, hinht⟩ := h1.frozen ha
    obtain ⟨hid', hlen', hdata', hinht'⟩ := h2.frozen (h1.owned ha)
    exact ⟨hid'.trans hid, hlen'.trans hlen, hdata'.trans hdata, hinht'.trans hinht⟩

/-- Every slot moves so. -/
def State.Advances (s t : State) : Prop := ∀ k, (s.slot k).Advances (t.slot k)

theorem State.Advances.refl (s : State) : s.Advances s := fun _ => .refl _

theorem State.Advances.trans {s t u : State} (h1 : s.Advances t) (h2 : t.Advances u) : s.Advances u :=
  fun k => (h1 k).trans (h2 k)

theorem advances_of_slots_eq {s t : State} (h : t.slots = s.slots) : s.Advances t := fun k => by
  rw [slot_congr h]; exact .refl _

theorem advances_modSlot {s : State} {k : Nat} {f : Slot → Slot} (h : (s.slot k).Advances (f (s.slot k))) :
    s.Advances (s.modSlot k f) := fun k' => by
  rw [slot_modSlot]
  split
  next hk => rw [hk.1]; exact h
  next => exact .refl _

/-- A change of flags that are neither TXST nor part of the frame. -/
theorem advances_modSlot_of_flags {s : State} {k : Nat} {f : Slot → Slot}
    (h : ∀ sl, (f sl).txst = sl.txst ∧ (f sl).id = sl.id ∧ (f sl).len = sl.len ∧ (f sl).data = sl.data ∧
      (f sl).inht = sl.inht) : s.Advances (s.modSlot k f) :=
  advances_modSlot ⟨.inl (h _).1, fun _ => (h _).2⟩

/-! ### The engine's procedures -/

theorem consumeNew_advances (s : State) (k : Nat) : s.Advances (s.consumeNew k) := by
  have h : s.Advances (s.modSlot k fun sl => { sl with new := false, ovr := false }) :=
    advances_modSlot_of_flags fun _ => ⟨rfl, rfl, rfl, rfl, rfl⟩
  rw [consumeNew_eq]
  exact h

theorem decodeIfNew_advances {sync : Bool} {i : Nat} {s t : State} (h : decodeIfNew sync i s = .next t) :
    s.Advances t := by
  rcases decodeIfNew_next h with rfl | ⟨-, -, h⟩
  · exact .refl _
  · rcases decodeRx_next h with rfl | h
    · exact .refl _
    · have hslot : s.Advances (s.modSlot (s.params.slotRx i) fun sl => { sl with new := false, ovr := false }) :=
        advances_modSlot_of_flags fun _ => ⟨rfl, rfl, rfl, rfl, rfl⟩
      rw [h]
      exact hslot

theorem markTx_slots (s : State) (j : Nat) (mode : TxMode) (buf : FrameBuf) (n : Nat) :
    (s.markTx j mode buf n).slots = (s.modSlot (s.params.slotTx j) (markSlot mode buf n)).slots := by
  cases mode <;> rfl

theorem evaluateTx_advances {j : Nat} {mode : TxMode} {hit : Bool} {s t : State}
    (h : evaluateTx j mode hit s = .next t) : s.Advances t := by
  have hconsume : ∀ u : State, u.Advances (u.consumeTrigger j) := fun u =>
    (advances_of_slots_eq rfl).trans (advances_modSlot_of_flags fun _ => ⟨rfl, rfl, rfl, rfl, rfl⟩)
  rcases evaluateTx_next h with ⟨-, rfl⟩ | ⟨c, -, u, rfl, rfl | ⟨-, hu⟩⟩
  · exact .refl _
  · exact hconsume u
  · refine State.Advances.trans ?_ (hconsume u)
    rcases encodeTx_next hu with rfl | ⟨c, buf, -, hidle, -, -, rfl⟩
    · exact .refl _
    · have hmark : s.Advances (s.modSlot (s.params.slotTx j) (markSlot mode buf c.totLen)) :=
        advances_modSlot (.of_idle hidle (by cases mode <;> exact TxState.noConfusion))
      exact hmark.trans (advances_of_slots_eq (markTx_slots ..))

theorem asyncTxIf_advances {j : Nat} {s t : State} (h : asyncTxIf j s = .next t) : s.Advances t := by
  unfold asyncTxIf at h
  split at h
  · cases h; exact .refl _
  · split at h
    · cases h; exact .refl _
    · exact evaluateTx_advances h

theorem syncTxIf_advances {j : Nat} {s t : State} (h : syncTxIf j s = .next t) : s.Advances t := by
  unfold syncTxIf at h
  split at h
  · cases h; exact .refl _
  · split at h
    · exact State.Advances.trans (t := s.modTx j _) (advances_of_slots_eq rfl) (evaluateTx_advances h)
    · cases h; exact .refl _

theorem forEach_advances {body : Nat → State → Result} {is : List Nat}
    (hb : ∀ i s t, body i s = .next t → s.Advances t) {s t : State} (h : forEach body is s = .next t) :
    s.Advances t :=
  forEach_inv (P := s.Advances) (fun i _ u v hu hv => hu.trans (hb i u v hv)) (.refl s) h

/-- R140: IssueChain touches at most the slot of a queued frame, and hands it over. -/
theorem slot_issueChain (s : State) (k : Nat) : s.issueChain.slot k = s.slot k ∨
    (∃ j ∈ s.chain, k = s.params.slotTx j) ∧ s.issueChain.slot k = { s.slot k with txst := .ready } := by
  unfold State.issueChain
  split
  next j rest _ hchain =>
    change (s.modSlot (s.params.slotTx j) fun sl => { sl with txst := .ready }).slot k = _ ∨
      _ ∧ (s.modSlot (s.params.slotTx j) fun sl => { sl with txst := .ready }).slot k = _
    rw [slot_modSlot]
    split
    next hk => exact .inr ⟨⟨j, by simp [hchain], hk.1⟩, by rw [hk.1]⟩
    next => exact .inl rfl
  next => exact .inl rfl

theorem issueChain_advances {s : State} (h : ∀ j ∈ s.chain, (s.slot (s.params.slotTx j)).txst = .filling) :
    s.Advances s.issueChain := fun k => by
  rcases slot_issueChain s k with hk | ⟨⟨j, hj, rfl⟩, hk⟩
  · rw [hk]; exact .refl _
  · rw [hk]
    exact ⟨.inr (.inr ⟨h j hj, rfl⟩), fun _ => ⟨rfl, rfl, rfl, rfl⟩⟩

theorem asyncPass_advances {s t : State} (h : asyncPass s = .next t) : s.Advances t := by
  obtain ⟨u, hu, ht⟩ := andThen_next h
  exact (forEach_advances (fun _ _ _ => decodeIfNew_advances) hu).trans
    (forEach_advances (fun _ _ _ => asyncTxIf_advances) ht)

theorem rtStep_advances {s t : State} (hi : Inv s) (h : rtStep s = .next t) : s.Advances t := by
  unfold rtStep at h
  split at h
  · obtain ⟨u, hu, ht⟩ := andThen_next h
    obtain ⟨v, hv, ht⟩ := andThen_next ht
    cases ht
    have hiv : Inv v := forEach_Inv (fun _ _ _ => syncTxIf_inv)
      (forEach_Inv (fun _ _ _ => decodeIfNew_inv) (consumeNew_inv hi _) hu) hv
    exact (((consumeNew_advances s _).trans (forEach_advances (fun _ _ _ => decodeIfNew_advances) hu)).trans
      (forEach_advances (fun _ _ _ => syncTxIf_advances) hv)).trans
      (issueChain_advances fun j hj => (hiv.chain.queued j hj).2.1)
  · cases h; exact consumeNew_advances s _

/-! ### Commands other than PDESTROY -/

/-- R39, R52: a slot that never sends is Idle. -/
theorem Inv.txst_eq_idle_of_not_send {s : State} (hi : Inv s) {k : Nat} (hk : s.params.isSendSlot k = false) :
    (s.slot k).txst = .idle := by
  rcases Nat.lt_or_ge k s.params.nSlot with hlt | hge
  · by_contra htx
    rw [hi.chain.idle k hlt htx] at hk
    cases hk
  · rw [slot_of_ge (by rw [hi.shape.slots]; exact hge)]
    rfl

theorem isSendSlot_syncS (p : Params) : p.isSendSlot p.syncS = false := by
  simp [Params.isSendSlot, Params.isTxSlot, Params.syncS, Params.emcyS]

theorem isSendSlot_of_lt {p : Params} {k : Nat} (hk : k < p.nRpdo) : p.isSendSlot k = false := by
  simp only [Params.isSendSlot, Params.isTxSlot, Params.emcyS, Bool.or_eq_false_iff, Bool.and_eq_false_iff,
    decide_eq_false_iff_not, beq_eq_false_iff_ne]
  omega

theorem advances_modSlot_of_not_send {s : State} (hi : Inv s) {k : Nat} (hk : s.params.isSendSlot k = false)
    {f : Slot → Slot} (hf : ∀ sl, (f sl).txst = sl.txst) : s.Advances (s.modSlot k f) := by
  have hidle := hi.txst_eq_idle_of_not_send hk
  exact advances_modSlot (.of_idle hidle (by rw [hf, hidle]; decide))

theorem composeEmcy_advances {s : State} (hidle : (s.slot s.params.emcyS).txst = .idle) : s.Advances s.composeEmcy :=
  advances_modSlot (.of_idle hidle TxState.noConfusion)

theorem emcyEnd_advances {s u : State} (hslots : u.slots = s.slots) (hparams : u.params = s.params) :
    s.Advances (s.emcyEnd u) := by
  unfold State.emcyEnd
  split
  · exact advances_of_slots_eq hslots
  · split
    · exact .refl s
    · rename_i hgate
      simp only [State.gateOpen, Bool.not_eq_true', Bool.not_eq_false, Bool.and_eq_true, beq_iff_eq] at hgate
      refine (advances_of_slots_eq hslots).trans (composeEmcy_advances (s := u) ?_)
      rw [hparams, slot_congr hslots]
      exact hgate.1

theorem install_advances {s : State} (hidle : (s.slot s.params.syncS).txst = .idle) : s.Advances s.install := by
  have hinstall : ∀ fresh id, (s.slot s.params.syncS).Advances (installSlot fresh id (s.slot s.params.syncS)) := by
    intro fresh id
    refine .of_idle hidle ?_
    unfold installSlot
    split <;> exact fun h => TxState.noConfusion (hidle.symm.trans h)
  have hremove : (s.slot s.params.syncS).Advances (removeSlot (s.slot s.params.syncS)) :=
    .of_idle hidle fun h => TxState.noConfusion (hidle.symm.trans h)
  rw [install_eq]
  split
  · exact advances_modSlot (hinstall _ _)
  · exact advances_modSlot hremove

/-- R115: no slot Commit writes to holds a frame. -/
theorem commit_advances {s : State} (hi : Inv s) (ha : s.active = false) (hn : s.noneSending) (st : Staged) :
    s.Advances (s.commit st) := fun k => by
  have hslots := commit_slots s st
  by_cases hrx : k < s.params.nRpdo
  · have hidle := hi.txst_eq_idle_of_not_send (isSendSlot_of_lt hrx)
    refine .of_idle hidle ?_
    rw [show k = s.params.slotRx k from rfl, slotRx_of_pdoPass hslots hi.shape hrx]
    change (s.slot k).txst ≠ .sending
    rw [hidle]
    decide
  · by_cases htx : k < s.params.emcyS
    · obtain ⟨j, rfl⟩ := Nat.exists_eq_add_of_le (Nat.le_of_not_lt hrx)
      have hj : j < s.params.nTpdo := by rw [Params.emcyS] at htx; omega
      have hidle := hi.chain.txst_eq_idle ha hn hj
      refine .of_idle hidle ?_
      rw [show s.params.nRpdo + j = s.params.slotTx j from rfl, slotTx_of_pdoPass hslots hi.shape hj,
        commitTxSlot_txst, hidle]
      decide
    · rw [slot_of_pdoPass_of_emcyS_le hslots (Nat.le_of_not_lt htx)]
      exact .refl _

theorem exec_pcreate_advances {s t : State} (hi : Inv s) (h : exec .pcreate s = .next t) : s.Advances t := by
  rcases exec_pcreate_cases s with ⟨-, hp⟩ | ⟨-, -, hp⟩ | ⟨ha, hn, ⟨f, -, hp⟩ | ⟨st, -, hp⟩⟩ <;> rw [hp] at h <;> cases h
  · exact .refl s
  · exact .refl s
  · exact advances_of_slots_eq (latch_slots { s with cfgErr := f.word } .pdoCfg)
  · exact commit_advances hi ha hn st

theorem exec_scobid_advances {s t : State} (hi : Inv s) (h : exec .scobid s = .next t) : s.Advances t := by
  have hidle := hi.txst_eq_idle_of_not_send (isSendSlot_syncS s.params)
  rw [exec_scobid] at h
  cases h
  split
  · let u : State := State.latch { s with syncCobId := cobInvalidate s.arg0 } .syncCobId
    have hu : u.slots = s.slots := latch_slots ..
    have hp : u.params = s.params := latch_params ..
    exact (advances_of_slots_eq hu).trans (install_advances (s := u) (by rw [hp, slot_congr hu, hidle]))
  · exact (advances_of_slots_eq rfl).trans (install_advances (s := { s with syncCobId := s.arg0 }) hidle)

/-- R39: no command but PDESTROY takes a frame back. -/
theorem exec_advances {i : Instr} {s t : State} (hi : Inv s) (hne : i ≠ .pdestroy) (h : exec i s = .next t) :
    s.Advances t := by
  cases i with
  | nop => cases h; exact .refl s
  | fget slot boff blen =>
    rw [exec_fget] at h
    cases h
    split <;> exact .refl s
  | fput slot boff blen =>
    rw [exec_fput] at h
    cases h
    split
    · exact .refl s
    · split
      · exact .refl s
      · rename_i hfree
        rw [← Slot.transportOwned_iff] at hfree
        exact advances_modSlot (k := slot) ⟨.inl rfl, fun howned => absurd howned hfree⟩
  | pcreate => exact exec_pcreate_advances hi h
  | pdestroy => exact absurd rfl hne
  | ptxreq tpdo =>
    cases h
    split
    · exact .refl s
    · split <;> exact advances_of_slots_eq rfl
  | ptask =>
    rcases exec_ptask_cases h with ⟨-, u, hu, rfl⟩ | ⟨-, rfl⟩
    · exact (asyncPass_advances hu).trans (advances_of_slots_eq rfl)
    · exact .refl s
  | ealarm code =>
    rw [exec_ealarm] at h
    cases h
    split
    · exact .refl s
    · exact emcyEnd_advances rfl rfl
  | eclear =>
    rw [exec_eclear] at h
    cases h
    split
    · exact .refl s
    · exact emcyEnd_advances rfl rfl
  | eforce =>
    rw [exec_eforce] at h
    cases h
    split
    · exact .refl s
    · exact emcyEnd_advances rfl rfl
  | ecobid =>
    rw [exec_ecobid] at h
    cases h
    split
    · exact advances_of_slots_eq (latch_slots { s with emcyCobId := cobInvalidate s.arg0 } .emcyCobId)
    · exact advances_of_slots_eq rfl
  | scobid => exact exec_scobid_advances hi h
  | svalid =>
    cases h
    exact (advances_of_slots_eq rfl).trans (install_advances (s := { s with validIn := s.arg0.extractLsb' 0 3 == 0 })
      (hi.txst_eq_idle_of_not_send (isSendSlot_syncS s.params)))
  | fack => cases h; exact .refl s
  | fclr => cases h; exact .refl s

/-! ### Every step -/

/-- What a step other than a reset does to slot k, `x` the request it takes: the slot advances, or PDESTROY withdraws
its frame, or the transport takes it, or is done with it. -/
inductive SlotStep (x : Option Input) (k : Nat) (a : Slot) : Slot → Prop
  | advanced {b : Slot} (h : a.Advances b) : SlotStep x k a b
  | withdrawn : SlotStep x k a (destroyTxSlot a)
  | taken (hx : x = some (.evTake k)) (ha : a.txst = .ready) : SlotStep x k a { a with txst := .sending }
  | done {ok : Bool} (hx : x = some (.evDone k ok)) (ha : a.txst = .sending) :
      SlotStep x k a { a with txst := .idle, txOk := ok }

theorem exec_pdestroy_slotStep {s t : State} (hi : Inv s) (h : exec .pdestroy s = .next t) (x : Option Input) (k : Nat) :
    SlotStep x k (s.slot k) (t.slot k) := by
  cases ha : s.active with
  | false => rw [exec_pdestroy_of_inactive ha] at h; cases h; exact .advanced (.refl _)
  | true =>
    rw [exec_pdestroy_of_active ha] at h
    cases h
    have hslots := (finish_slots _ .ok).trans (destroySet_slots s)
    by_cases hrx : k < s.params.nRpdo
    · rw [show k = s.params.slotRx k from rfl, slotRx_of_pdoPass hslots hi.shape hrx]
      exact .advanced ⟨.inl rfl, fun _ => ⟨rfl, rfl, rfl, rfl⟩⟩
    · by_cases htx : k < s.params.emcyS
      · obtain ⟨j, rfl⟩ := Nat.exists_eq_add_of_le (Nat.le_of_not_lt hrx)
        have hj : j < s.params.nTpdo := by rw [Params.emcyS] at htx; omega
        rw [show s.params.nRpdo + j = s.params.slotTx j from rfl, slotTx_of_pdoPass hslots hi.shape hj]
        exact .withdrawn
      · rw [slot_of_pdoPass_of_emcyS_le hslots (Nat.le_of_not_lt htx)]
        exact .advanced (.refl _)

theorem hostWrite_slotStep {a : BitVec 16} {w : AccessWidth} {v : Word} {s t : State} (hi : Inv s)
    (h : hostWrite a w v s = .next t) (x : Option Input) (k : Nat) : SlotStep x k (s.slot k) (t.slot k) := by
  rcases hostWrite_cases a w v s with ⟨-, hc⟩ | ⟨-, ⟨r, hc⟩ | hc⟩
  · rw [hc] at h
    rcases runCommand_cases v (s.answer .written) with ⟨i, -, hrun⟩ | ⟨-, hrun⟩
    · rw [hrun] at h
      by_cases hne : i = .pdestroy
      · exact exec_pdestroy_slotStep (answer_inv hi .written) (hne ▸ h) x k
      · exact .advanced (exec_advances (answer_inv hi .written) hne h k)
    · rw [hrun] at h; cases h; exact .advanced (.refl _)
  · rw [hc] at h
    cases h
    have hslots : (s.writeReg r v).slots = s.slots := by
      cases r with
      | core r => cases r <;> rfl
      | rxDef i r => rfl
      | txDef j r => rfl
      | window k r => rfl
    exact .advanced (advances_of_slots_eq hslots k)
  · rw [hc] at h; cases h; exact .advanced (.refl _)

theorem evDone_slotStep {s : State} (hi : Inv s) {k' : Nat} {ok : Bool} (he : (s.slot k').txst = .sending) (k : Nat) :
    SlotStep (some (.evDone k' ok)) k (s.slot k) ((evDone k' ok s).slot k) := by
  have hlt : k' < s.slots.length := by
    rw [hi.shape.slots]
    exact slot_pred hi.shape (P := fun sl => sl.txst = .sending) he (by decide)
  have hfreed : (s.modSlot k' fun sl => { sl with txst := .idle, txOk := ok }).slot k =
      if k = k' then { s.slot k' with txst := .idle, txOk := ok } else s.slot k := by
    rw [slot_modSlot]
    simp only [hlt, and_true]
  have hstep : SlotStep (some (.evDone k' ok)) k (s.slot k)
      ((s.modSlot k' fun sl => { sl with txst := .idle, txOk := ok }).slot k) := by
    rw [hfreed]
    split
    next hk => subst hk; exact .done rfl he
    next => exact .advanced (.refl _)
  rw [advance_eq]
  by_cases hk : s.chainCur.map s.params.slotTx = some k'
  · rw [if_pos hk]
    rcases slot_issueChain { (s.modSlot k' fun sl => { sl with txst := .idle, txOk := ok }) with
      chainCur := if s.chainCur.map s.params.slotTx = some k' then none else s.chainCur } k with
      hsame | ⟨⟨j, hj, hkj⟩, hready⟩
    · rw [hsame]; exact hstep
    · have hfill : (s.slot k).txst = .filling := by
        have := (hi.chain.queued j hj).2.1
        rwa [show s.params.slotTx j = k from hkj.symm] at this
      have hne : k ≠ k' := fun h => by rw [h, he] at hfill; cases hfill
      rw [hready]
      change SlotStep _ k (s.slot k)
        { (s.modSlot k' fun sl => { sl with txst := .idle, txOk := ok }).slot k with txst := .ready }
      rw [hfreed, if_neg hne]
      exact .advanced ⟨.inr (.inr ⟨hfill, rfl⟩), fun _ => ⟨rfl, rfl, rfl, rfl⟩⟩
  · rw [if_neg hk]
    exact hstep

theorem perform_slotStep {x : Input} {s t : State} (hi : Inv s) (he : enabled x s = true) (hx : x ≠ .resetInput)
    (h : perform x s = .next t) (k : Nat) : SlotStep (some x) k (s.slot k) (t.slot k) := by
  cases x with
  | hostRead addr width =>
    cases h
    unfold hostRead
    split <;> exact .advanced (.refl _)
  | hostWrite addr width v => exact hostWrite_slotStep hi h _ k
  | rtStep => exact .advanced (rtStep_advances hi h k)
  | evRx k' bytes =>
    cases h
    simp only [enabled, Bool.and_eq_true, decide_eq_true_eq] at he
    have hlt := slot_pred hi.shape (P := fun sl => sl.reg = true) he.1 (by decide)
    have hsend : s.params.isSendSlot k' = false := by
      rcases hi.reg.regOnly k' hlt he.1 with hrx | rfl
      · exact isSendSlot_of_lt hrx
      · exact isSendSlot_syncS s.params
    have hadv : s.Advances (evRx k' bytes s) := advances_modSlot_of_not_send hi hsend fun _ => rfl
    exact .advanced (hadv k)
  | evRtr k' =>
    cases h
    have hadv : s.Advances (evRtr k' s) := advances_modSlot_of_flags fun _ => ⟨rfl, rfl, rfl, rfl, rfl⟩
    exact .advanced (hadv k)
  | evTake k' =>
    cases h
    simp only [enabled, Bool.and_eq_true, beq_iff_eq] at he
    rw [evTake, slot_modSlot]
    split
    next hk => obtain ⟨rfl, -⟩ := hk; exact .taken rfl he.1
    next => exact .advanced (.refl _)
  | evDone k' ok => cases h; exact evDone_slotStep hi (by simpa [enabled] using he) k
  | evInh k' b =>
    cases h
    have hadv : s.Advances (evInh k' b s) := advances_modSlot_of_flags fun _ => ⟨rfl, rfl, rfl, rfl, rfl⟩
    exact .advanced (hadv k)
  | evBlk k' b =>
    cases h
    have hadv : s.Advances (evBlk k' b s) := advances_modSlot_of_flags fun _ => ⟨rfl, rfl, rfl, rfl, rfl⟩
    exact .advanced (hadv k)
  | app a w v => cases h; exact .advanced (.refl _)
  | resetInput => exact absurd rfl hx

/-- R39: what a step other than a reset does to a slot. -/
theorem step_slotStep {s t : State} (hi : Inv s) (h : step s = .next t) (hx : s.inputs.head? ≠ some .resetInput)
    (k : Nat) : SlotStep s.inputs.head? k (s.slot k) (t.slot k) := by
  refine step_induction (P := fun t => SlotStep s.inputs.head? k (s.slot k) (t.slot k)) h (.advanced (.refl _))
    (fun _ _ _ => .advanced (.refl _)) fun x xs hxs he hp => ?_
  rw [hxs] at hx ⊢
  exact perform_slotStep (begin_inv hi xs) ((enabled_begin x s xs).trans he) (fun h => hx (by rw [h]; rfl)) hp k

/-! ### The statements about ownership -/

/-- Settles O53: every case of `SlotStep` leaves the frame of a slot the transport owns alone. -/
theorem transportOwnedSlotsAreFrozen : Obligations.TransportOwnedSlotsAreFrozen := by
  intro s t k hi h hx howned
  have hstep := step_slotStep hi h hx k
  generalize s.slot k = a, t.slot k = b at *
  cases hstep with
  | advanced hadv => exact hadv.frozen (Slot.transportOwned_iff.mpr howned)
  | withdrawn => exact ⟨rfl, rfl, rfl, rfl⟩
  | taken => exact ⟨rfl, rfl, rfl, rfl⟩
  | done => exact ⟨rfl, rfl, rfl, rfl⟩

/-- Settles O54: each case of `SlotStep` is a row of the table, and only EV_TAKE and EV_DONE have Sending at an
end. -/
theorem ownershipFollowsTheTable : Obligations.OwnershipFollowsTheTable := by
  intro s t k hi h hx
  have hstep := step_slotStep hi h hx k
  generalize s.slot k = a, t.slot k = b at *
  cases hstep with
  | advanced hadv =>
    rcases hadv.txst with htx | ⟨ha, hb | hb⟩ | ⟨ha, hb⟩
    · rw [htx]
      exact ⟨by cases a.txst <;> rfl, .inl, .inl⟩
    all_goals simp [ha, hb, TxState.stepsTo]
  | withdrawn =>
    rw [destroyTxSlot_eq]
    cases a.txst <;> simp [TxState.stepsTo]
  | taken hx ha => simp [ha, hx, TxState.stepsTo]
  | done hx ha => simp [ha, hx, TxState.stepsTo]

end Sys2Proof.Machine
end

section
/-! Proofs about the steps of the agents (60_exceptions.md R187 to R203; 70_reset_and_hazards.md R206): a register
read, the transport's events, an application write, the reset. The idea of all of them: the request's condition decides
between `step_of_enabled` and `step_of_not_enabled`, and the effect is one change of one slot, or of memory. -/

namespace Sys2Proof.Machine

/-! ### Register reads (R62, R174) -/

/-- R62: no register is at an address that is not 4-byte-aligned. -/
theorem regAt_of_unaligned {p : Params} {a : BitVec 16} (h : a.toNat % 4 ≠ 0) : regAt p a = none := by
  rw [regAt, if_pos h]

/-- A register's value does not depend on the schedule or on its answer. -/
theorem readReg_begin (s : State) (xs : List Input) (r : Reg) : (s.begin xs).readReg r = s.readReg r := by
  cases r with
  | core r => cases r <;> rfl
  | rxDef i r => cases r <;> rfl
  | txDef j r => cases r <;> rfl
  | window k r => cases r <;> rfl

/-- Settles O38: a read is enabled at any time, and its answer is the register's value where one is mapped. -/
theorem readsArePure : Obligations.ReadsArePure := by
  intro s a w xs hs
  have hstep : step s = .next (hostRead a w (s.begin xs)) := step_of_enabled hs rfl
  rw [hstep]
  refine ⟨fun r hw hr => ?value, fun hbad => ?busError⟩
  case value =>
    subst hw
    have hr' : regAt (s.begin xs).params a = some r := hr
    simp only [hostRead, hr', readReg_begin]
    rfl
  case busError =>
    have hbad' : w ≠ .w32 ∨ regAt (s.begin xs).params a = none := by
      rcases hbad with hw | ha | hr
      · exact .inl hw
      · exact .inr (regAt_of_unaligned ha)
      · exact .inr hr
    unfold hostRead
    split
    next hr => simp [hr] at hbad'
    next => rfl

/-! ### Receiving a frame (R198) -/

/-- R198: the bytes below the length are the received ones, the others stay. -/
theorem byteAt_receivedData (d : FrameBuf) {bytes : List Byte} (hlen : bytes.length ≤ 8) {b : Nat} (hb : b < 8) :
    byteAt (receivedData d bytes) b = if b < bytes.length then bytes.getD b 0 else byteAt d b := by
  have hput := byteAt_putBits d 0 bytes.length (leBytes bytes) b hb
  simp only [Nat.mul_zero, Nat.zero_le, true_and, Nat.zero_add, Nat.sub_zero] at hput
  rw [receivedData, hput, byteAt_leBytes hlen]

/-- Settles O42. -/
theorem receiveRule : Obligations.ReceiveRule := by
  intro s k bytes xs hs
  refine ⟨fun hreg hlen _ => ?taken, fun hbad => ?dropped⟩
  case taken =>
    refine ⟨receivedData (s.slot k).data bytes, ?_, fun b hb => byteAt_receivedData _ hlen hb⟩
    rw [step_of_enabled hs (by simp [enabled, hreg, hlen])]
    exact congrArg Host.Outcome.next (modSlot_congr (s := s.begin xs) (k := k) rfl)
  case dropped =>
    refine step_of_not_enabled hs ?_
    rcases hbad with hreg | hlen
    · simp [enabled, hreg]
    · simp [enabled, hlen]

/-! ### The transport's other marks (R199, R200, R202, R203) -/

/-- An event is taken exactly where its condition holds. -/
theorem step_of_event {s : State} {x : Input} {xs : List Input} (hs : s.inputs = x :: xs) {p : Prop} [Decidable p]
    (he : enabled x s = decide p) {u : State} (hp : perform x (s.begin xs) = .next u) :
    step s = .next (if p then u else { s with inputs := xs, response := .notEnabled }) := by
  by_cases h : p
  · rw [step_of_enabled hs (by rw [he, decide_eq_true h]), hp, if_pos h]
  · rw [step_of_not_enabled hs (by rw [he, decide_eq_false h]), if_neg h]

/-- R36, R39: the slots that send are those from the first TPDO's up to EMCY_S. -/
theorem isSendSlot_eq (p : Params) (k : Nat) : p.isSendSlot k = decide (p.nRpdo ≤ k ∧ k ≤ p.emcyS) := by
  rw [Bool.eq_iff_iff, decide_eq_true_iff]
  simp only [Params.isSendSlot, Params.isTxSlot, Params.emcyS, Bool.or_eq_true, Bool.and_eq_true, decide_eq_true_eq,
    beq_iff_eq]
  omega

/-- Settles O43. -/
theorem transportMarks : Obligations.TransportMarks := by
  intro s k b xs
  refine ⟨fun hs => ?rtr, fun hs => ?take, fun hs => ?inh, fun hs => ?blk⟩
  case rtr => exact step_of_event hs (by simp [enabled]) rfl
  case take =>
    refine step_of_event hs ?_ rfl
    rw [Bool.eq_iff_iff]
    simp only [enabled, Bool.and_eq_true, beq_iff_eq, Bool.not_eq_true', decide_eq_true_eq]
  case inh => exact step_of_event hs (isSendSlot_eq s.params k) rfl
  case blk => exact step_of_event hs (isSendSlot_eq s.params k) rfl

/-! ### Completion (R141, R201) -/

/-- The slot of a frame the transport is done with. -/
def doneSlot (ok : Bool) (sl : Slot) : Slot := { sl with txst := .idle, txOk := ok }

/-- R201: a completion that is not of the chain's current frame frees the slot alone. -/
theorem evDone_of_ne {s : State} {k : Nat} (h : ∀ j ∈ s.chainCur, k ≠ s.params.slotTx j) (ok : Bool) :
    evDone k ok s = s.modSlot k (doneSlot ok) := by
  unfold evDone State.advanceChain
  cases hcur : s.chainCur with
  | none => simp only [modSlot_chainCur, hcur]; rfl
  | some j => simp only [modSlot_chainCur, hcur, modSlot_params]; exact if_neg (h j hcur)

/-- R141: with nothing queued the completion of the current frame ends the chain. -/
theorem evDone_of_last {s : State} {j : Nat} (hcur : s.chainCur = some j) (hchain : s.chain = []) (ok : Bool) :
    evDone (s.params.slotTx j) ok s = { s.modSlot (s.params.slotTx j) (doneSlot ok) with chainCur := none } := by
  simp only [evDone, State.advanceChain, modSlot_chainCur, hcur, modSlot_params, ↓reduceIte, State.issueChain,
    modSlot_chain, hchain]
  rfl

/-- R140, R141: else it hands the next frame over. -/
theorem evDone_of_next {s : State} {j n : Nat} {rest : List Nat} (hcur : s.chainCur = some j)
    (hchain : s.chain = n :: rest) (ok : Bool) :
    evDone (s.params.slotTx j) ok s =
      { (s.modSlot (s.params.slotTx j) (doneSlot ok)).modSlot (s.params.slotTx n) fun sl => { sl with txst := .ready } with
        chain := rest, chainCur := some n } := by
  simp only [evDone, State.advanceChain, modSlot_chainCur, hcur, modSlot_params, ↓reduceIte, State.issueChain,
    modSlot_chain, hchain]
  rfl

theorem slot_done {s : State} {k : Nat} (hk : k < s.slots.length) (ok : Bool) (k' : Nat) :
    (s.modSlot k (doneSlot ok)).slot k' = if k' = k then doneSlot ok (s.slot k) else s.slot k' := by
  rw [slot_modSlot]
  exact if_congr (and_iff_left hk) rfl rfl

/-- The slots after a completion that hands slot n over. -/
theorem slot_done_ready {s : State} {k n : Nat} (hk : k < s.slots.length) (hn : n < s.slots.length) (hne : n ≠ k)
    (ok : Bool) (k' : Nat) :
    ((s.modSlot k (doneSlot ok)).modSlot n fun sl => { sl with txst := .ready }).slot k' =
      if k' = n then { s.slot n with txst := .ready } else if k' = k then doneSlot ok (s.slot k) else s.slot k' := by
  rw [slot_modSlot, slot_modSlot_ne _ _ _ hne, slot_done hk]
  exact if_congr (and_iff_left (by rw [modSlot_length]; exact hn)) rfl rfl

/-- Settles O44: the three equations of EV_DONE; a queued frame is Filling, so its slot is not the Sending one. -/
theorem completionAdvancesTheChain : Obligations.CompletionAdvancesTheChain := by
  intro s k ok xs hshape hchain hs
  refine ⟨fun hne => step_of_not_enabled hs (by simp [enabled, hne]), fun hsend => ?_⟩
  have hlt : k < s.slots.length := by
    rw [hshape.slots]
    exact slot_pred hshape (P := fun sl => sl.txst = .sending) hsend (by decide)
  have hother : ∀ k', k' ≠ k → ((s.begin xs).modSlot k (doneSlot ok)).slot k' = s.slot k' := fun k' hk' =>
    slot_modSlot_ne (s.begin xs) _ _ hk'
  have hdone : ((s.begin xs).modSlot k (doneSlot ok)).slot k = doneSlot ok (s.slot k) :=
    (slot_done (s := s.begin xs) hlt ok k).trans (if_pos rfl)
  refine ⟨evDone k ok (s.begin xs), step_of_enabled hs (by simp [enabled, hsend]), ?_⟩
  cases hcur : s.chainCur with
  | none =>
    rw [evDone_of_ne (s := s.begin xs) fun j hj => by rw [show (s.begin xs).chainCur = none from hcur] at hj; cases hj]
    exact ⟨rfl, modSlot_length .., hdone, rfl, hcur, hother⟩
  | some j =>
    by_cases hk : k = s.params.slotTx j
    · subst hk
      cases hq : s.chain with
      | nil =>
        have heq : evDone (s.params.slotTx j) ok (s.begin xs) = _ := evDone_of_last (s := s.begin xs) hcur hq ok
        rw [heq]
        exact ⟨rfl, modSlot_length .., hdone, Eq.mpr (if_pos rfl) ⟨hq, rfl, hother⟩⟩
      | cons n rest =>
        have hfill := (hchain.queued n (by rw [hq]; exact List.mem_cons_self ..)).2.1
        have hne : s.params.slotTx n ≠ s.params.slotTx j := fun h => by
          rw [h, hsend] at hfill
          cases hfill
        have hnlt : s.params.slotTx n < s.slots.length := by
          rw [hshape.slots]
          exact slot_pred hshape (P := fun sl => sl.txst = .filling) hfill (by decide)
        have heq : evDone (s.params.slotTx j) ok (s.begin xs) = _ := evDone_of_next (s := s.begin xs) hcur hq ok
        have hslot := slot_done_ready (s := s.begin xs) hlt hnlt hne ok
        rw [heq]
        exact ⟨rfl, (modSlot_length ..).trans (modSlot_length ..),
          (hslot _).trans ((if_neg hne.symm).trans (if_pos rfl)), Eq.mpr (if_pos rfl) ⟨rfl, rfl,
            (hslot _).trans (if_pos rfl), fun k' hk hk' => (hslot _).trans ((if_neg hk').trans (if_neg hk))⟩⟩
    · rw [evDone_of_ne (s := s.begin xs) fun j' hj' => by
        rw [show (s.begin xs).chainCur = some j from hcur] at hj'
        cases hj'
        exact hk]
      exact ⟨rfl, modSlot_length .., hdone, Eq.mpr (if_neg hk) ⟨rfl, hcur, hother⟩⟩

/-! ### The application (R187) -/

theorem AppWidth.bytes_le (w : AppWidth) : w.bytes ≤ 8 := by cases w <;> decide

/-- Settles O45. -/
theorem applicationWrites : Obligations.ApplicationWrites := by
  intro s a w v xs hmem hs
  refine ⟨s.mem.writeBytes a w.bytes v, step_of_enabled hs rfl,
    fun k hk => read_writeBytes_eq a v hmem w.bytes_le hk, fun b hb => read_writeBytes_ne _ _ _ _ fun hm => ?_⟩
  obtain ⟨k, hk, rfl⟩ := mem_accessAddrs.mp hm
  exact hb k hk rfl

/-! ### Reset (R206, R207) -/

theorem mapAt_reset (e : Nat) : PdoDef.reset.mapAt e = 0 := by
  rw [PdoDef.mapAt, PdoDef.reset, Vector.toList_replicate, getD_replicate]

/-- R206: a definition block after reset: COMM INVALID, every other register 0. -/
theorem readRxDef_resetWith (p : Params) (i : Nat) {r : PdoReg} (hr : r ≠ .comm) :
    (State.resetWith p).readRxDef i r = 0 := by
  cases r
  case comm => exact absurd rfl hr
  case map e => rw [State.readRxDef, rxDef_resetWith, mapAt_reset]
  case cnt => exact getD_replicate ..
  case rtStat => rw [State.readRxDef, rxEntry_resetWith, rxRtStat]
  case ttype | mapCnt => rw [State.readRxDef, rxDef_resetWith]; rfl
  case cfg | inhibit | syncStart => rfl

theorem readTxDef_resetWith (p : Params) (j : Nat) {r : PdoReg} (hr : r ≠ .comm) :
    (State.resetWith p).readTxDef j r = 0 := by
  cases r
  case comm => exact absurd rfl hr
  case map e => rw [State.readTxDef, txDef_resetWith]; exact mapAt_reset e
  case cnt => exact getD_replicate ..
  case rtStat => rw [State.readTxDef, txEntry_resetWith, txRtStat]
  case ttype | mapCnt | cfg | inhibit | syncStart => rw [State.readTxDef, txDef_resetWith]; rfl

theorem readWindow_resetWith (p : Params) (k : Nat) (r : WinReg) : (State.resetWith p).readWindow k r = 0 := by
  cases r with
  | reserved => rfl
  | _ => rw [State.readWindow, slot_resetWith]; rfl

/-- R206: the registers that read as 0 after reset. -/
theorem readCore_resetWith (p : Params) {r : CoreReg} (hr : r ∈ [CoreReg.status, .arg0, .arg1, .res0, .res1, .fault,
    .faultNew, .irqEn, .cfgErr, .pdoStat, .emcyErrReg, .emcyMfr, .emcyCode, .emcyInh, .emcyStat, .syncCtrl]) :
    (State.resetWith p).readCore r = 0 := by
  cases r
  case id | cmd | param | nodeId | emcyCobId | syncCobId => simp at hr
  case pdoStat | syncCtrl =>
    simp [State.readCore, State.pdoStatWord, State.syncCtrlWord, State.resetWith, flagAt, bitsAt]
  all_goals rfl

/-- The reset block reads as `resetWith` does: the kept memory and schedule are in no register. -/
theorem readReg_resetBlock (s : State) (r : Reg) :
    (resetBlock s).readReg r = (State.resetWith s.params).readReg r := by
  cases r with
  | core r => cases r <;> rfl
  | rxDef i r => cases r <;> rfl
  | txDef j r => cases r <;> rfl
  | window k r => cases r <;> rfl

/-- Settles O46. -/
theorem resetRule : Obligations.ResetRule := by
  intro s xs hs
  have hread : ∀ r, (resetBlock (s.begin xs)).readReg r = (State.resetWith s.params).readReg r :=
    readReg_resetBlock (s.begin xs)
  refine ⟨resetBlock (s.begin xs), step_of_enabled hs rfl, rfl, rfl, rfl, fun r hr => ?_, ?_, ?_, ?_, fun i _ => ?_,
    fun j _ => ?_, fun k _ r => ?_, rfl, rfl, rfl, ?_⟩
  · rw [hread]; exact readCore_resetWith s.params hr
  · rw [hread]; rfl
  · rw [hread]
    change (0x080 + s.params.nodeId.setWidth 32 : Word).toNat = _
    have := s.params.nodeId.isLt
    rw [BitVec.toNat_add, BitVec.toNat_setWidth]
    change (0x080 + s.params.nodeId.toNat % 2 ^ 32) % 2 ^ 32 = _
    omega
  · rw [hread]; rfl
  · refine ⟨?_, rxEntry_resetWith s.params i, fun r hr => ?_⟩
    · rw [hread]; exact congrArg PdoDef.comm (rxDef_resetWith s.params i)
    · rw [hread]; exact readRxDef_resetWith s.params i hr
  · refine ⟨?_, txEntry_resetWith s.params j, fun r hr => ?_⟩
    · rw [hread]; exact congrArg (fun d : TxDef => d.base.comm) (txDef_resetWith s.params j)
    · rw [hread]; exact readTxDef_resetWith s.params j hr
  · rw [hread]; exact readWindow_resetWith s.params k r
  · exact irq_eq_false_of_faultNew_eq_zero rfl

/-! ### The interrupt output (R183) -/

/-- R183: the output is 1 exactly when a bit of FAULTNEW is enabled. -/
theorem irq_iff {s : State} : s.irq = true ↔ ∃ b < 5, s.faultNew.getLsbD b = true ∧ s.irqEn.getLsbD b = true := by
  rw [State.irq, bne_iff_ne, Ne, BitVec.eq_of_getLsbD_eq_iff]
  simp only [BitVec.getLsbD_and, BitVec.ofNat_eq_ofNat, BitVec.getLsbD_zero, not_forall, Bool.not_eq_false, Bool.and_eq_true, exists_prop]

/-- Settles O60. -/
theorem interruptIsALevel : Obligations.InterruptIsALevel :=
  ⟨fun _ => irq_iff, fun _ => ⟨rfl, irq_eq_false_of_faultNew_eq_zero rfl⟩⟩

end Sys2Proof.Machine
end

section
/-! Proofs about the receive side of the PDO engine (42_pdo_runtime.md R128, R131, R132). The idea: a decode stores a list
of bytes in order, the last one at an address stays, and such lists are joined when decodes follow each other; an RPDO's
decode looks at that RPDO's own state alone, so a pass is the sum of its decodes. -/

namespace Sys2Proof.Machine

/-! ### Bytes stored one after another -/

/-- What address `a` holds after these bytes are stored in order, when it held `old`. -/
def lastStored (a : Word) (old : Byte) (stored : List (Word × Byte)) : Byte :=
  stored.foldl (fun b x => if x.1 = a then x.2 else b) old

theorem lastStored_append (a : Word) (old : Byte) (l l' : List (Word × Byte)) :
    lastStored a old (l ++ l') = lastStored a (lastStored a old l) l' := List.foldl_append

theorem lastStored_of_not_mem {a : Word} {stored : List (Word × Byte)} (h : a ∉ stored.map (·.1)) (old : Byte) :
    lastStored a old stored = old := by
  induction stored generalizing old with
  | nil => rfl
  | cons x xs ih =>
    rw [List.map_cons, List.mem_cons, not_or] at h
    change lastStored a (if x.1 = a then x.2 else old) xs = old
    rw [if_neg (Ne.symm h.1), ih h.2]

/-- The model's words for a memory after stores, from the byte at each address. -/
theorem memoryAfter_of_reads {m m' : Memory} {stored : List (Word × Byte)}
    (h : ∀ a : Word, m'.read a.toNat = lastStored a (m.read a.toNat) stored) : MemoryAfter m m' stored := by
  constructor
  · rintro before a v after rfl ha
    rw [h, lastStored_append]
    change lastStored a (if a = a then v else _) after = v
    rw [if_pos rfl, lastStored_of_not_mem ha]
  · intro a ha
    rw [h, lastStored_of_not_mem ha]

theorem read_write {m : Memory} (hm : m.wf = true) (a b : Word) (v : Byte) :
    (m.write a.toNat v).read b.toNat = if a = b then v else m.read b.toNat := by
  split
  next hab => rw [hab, read_write_eq v hm]
  next hab => exact read_write_ne _ _ fun h => hab (BitVec.eq_of_toNat_eq h.symm)

/-- R68: an access of w bytes stores them in order. -/
theorem read_writeBytes {m : Memory} (hm : m.wf = true) (a : Word) (w : Nat) (v : DWord) (b : Word) :
    (m.writeBytes a w v).read b.toNat =
      lastStored b (m.read b.toNat) ((List.range w).map fun k => (a + BitVec.ofNat 32 k, byteAt v k)) := by
  induction w with
  | zero => rfl
  | succ w ih =>
    have hstep : m.writeBytes a (w + 1) v =
        (m.writeBytes a w v).write (a + BitVec.ofNat 32 w).toNat (byteAt v w) := by
      rw [Memory.writeBytes, List.range_succ, List.foldl_append]
      rfl
    rw [hstep, read_write (writeBytes_wf a w v hm), ih, List.range_succ, List.map_append, lastStored_append]
    rfl

/-! ### Decoding elements (R128) -/

/-- R92, R128: byte k of the value an element's decode stores. -/
theorem byteAt_decodedValue (p : Params) (d : FrameBuf) (el : Elem) {k : Nat} (hk : k < el.w) :
    byteAt (decodedValue p d el) k = el.storedByte p d k := by
  unfold decodedValue Elem.storedByte
  split
  · rfl
  · apply byte_ext
    intro b hb
    have hfield : 8 * k + b < 8 * el.w := by omega
    rw [byteAt_getLsbD, byteAt_getLsbD, getBits_bit, decide_eq_true hfield, Bool.true_and]
    congr 2
    ring

theorem decodeElem_reads {d : FrameBuf} {el : Elem} {s t : State} (hm : s.mem.wf = true)
    (h : decodeElem d el s = .next t) (a : Word) :
    t.mem.read a.toNat = lastStored a (s.mem.read a.toNat) (el.stored s.params d) := by
  unfold decodeElem at h
  unfold Elem.stored
  cases hk : el.kind with
  | dummy => rw [hk] at h; cases h; rfl
  | data =>
    rw [hk] at h
    rw [memWrite_next h]
    refine (read_writeBytes hm _ _ _ a).trans (congrArg _ (List.map_congr_left fun k hmem => ?_))
    rw [byteAt_decodedValue _ _ _ (List.mem_range.mp hmem)]

/-- R130: the elements' bytes are stored in mapping order. -/
theorem decodeElems_reads {d : FrameBuf} {els : List Elem} {s t : State} (hm : s.mem.wf = true)
    (h : decodeElems d els s = .next t) (a : Word) :
    t.mem.read a.toNat = lastStored a (s.mem.read a.toNat) (els.flatMap (·.stored s.params d)) := by
  induction els generalizing s with
  | nil => cases h; rfl
  | cons el els ih =>
    obtain ⟨u, hu, ht⟩ := andThen_next h
    have hone : decodeElems d [el] s = .next u := by rw [decodeElems, hu, andThen_of_next, decodeElems]
    obtain ⟨hframe, hwf, -⟩ := decodeElems_next hone
    have hp : u.params = s.params := (congrArg State.params hframe).trans rfl
    rw [ih (hwf hm) ht, hp, decodeElem_reads hm hu, List.flatMap_cons, lastStored_append]

/-! ### Fault bits that are latched (R181) -/

theorem faultsLatched_of_eq {s t : State} (hf : t.fault = s.fault) (hn : t.faultNew = s.faultNew) :
    FaultsLatched s t fun _ => False := fun b _ => by
  rw [hf, hn]
  simp

theorem FaultsLatched.trans {s t u : State} {c c' : Nat → Prop} (h : FaultsLatched s t c) (h' : FaultsLatched t u c') :
    FaultsLatched s u fun b => c b ∨ c' b := fun b hb => by
  obtain ⟨hf, hn⟩ := h b hb
  obtain ⟨hf', hn'⟩ := h' b hb
  have hfalse : t.fault.getLsbD b = false ↔ s.fault.getLsbD b = false ∧ ¬ c b := by
    rw [← Bool.not_eq_true, hf, not_or, Bool.not_eq_true]
  refine ⟨by rw [hf', hf, or_assoc], ?_⟩
  rw [hn', hn, hfalse]
  by_cases hc : c b <;> simp only [hc, true_and, false_and, not_true, not_false_eq_true, and_true, and_false, or_false,
    true_or, false_or]

theorem FaultsLatched.congr {s t : State} {c c' : Nat → Prop} (h : FaultsLatched s t c) (hc : ∀ b, c b ↔ c' b) :
    FaultsLatched s t c' := fun b hb => by
  rw [← hc]
  exact h b hb

theorem faultsLatched_latch (s : State) (b : FaultBit) : FaultsLatched s (s.latch b) (· = b.pos) := fun i _ => by
  rw [latch_fault_bit, latch_faultNew_bit]
  by_cases hi : i = b.pos
  · subst hi; simp
  · simp [hi]

theorem faultsLatched_consumeNew (s : State) (k : Nat) :
    FaultsLatched s (s.consumeNew k) fun b => b = 1 ∧ (s.slot k).ovr = true := by
  unfold State.consumeNew
  split
  next ho => exact ((faultsLatched_latch _ .swOvr).congr fun b => by simp [ho, FaultBit.pos])
  next ho => exact (faultsLatched_of_eq rfl rfl).congr fun b => by simp [ho]

/-! ### DecodeRx (R131) -/

/-- What a decode of RPDO i, compiled as `c`, does to the state. -/
structure Decoded (i : Nat) (c : RxEntry) (s t : State) : Prop where
  frame  : t = { s with
    slots := s.slots.modify i fun sl => { sl with new := false, ovr := false }
    fault := t.fault, faultNew := t.faultNew, mem := t.mem, rxCnt := t.rxCnt }
  faults : FaultsLatched s t fun b => b = 0 ∧ (s.slot i).len ≠ c.totLen ∨ b = 1 ∧ (s.slot i).ovr = true
  cnt    : t.rxCnt = if (s.slot i).len = c.totLen then s.rxCnt.modify i (· + 1) else s.rxCnt
  mem    : s.mem.wf = true → ∀ a : Word, t.mem.read a.toNat = lastStored a (s.mem.read a.toNat)
    (if (s.slot i).len = c.totLen then c.elems.flatMap (·.stored s.params (s.slot i).data) else [])

theorem consumeNew_mem (s : State) (k : Nat) : (s.consumeNew k).mem = s.mem := by rw [consumeNew_eq]
theorem consumeNew_rxCnt (s : State) (k : Nat) : (s.consumeNew k).rxCnt = s.rxCnt := by rw [consumeNew_eq]

theorem decoded_of_decodeRx {i : Nat} {c : RxEntry} {s t : State} (hc : s.rxEntry i = some c)
    (h : decodeRx i s = .next t) : Decoded i c s t := by
  unfold decodeRx at h
  rw [hc] at h
  change (if (s.slot i).len ≠ c.totLen then _ else _) = _ at h
  by_cases hlen : (s.slot i).len ≠ c.totLen
  · rw [if_pos hlen] at h
    cases h
    refine ⟨?_, ?_, ?_, fun _ a => ?_⟩
    · rw [latch_eq, consumeNew_eq]; rfl
    · refine ((faultsLatched_consumeNew s i).trans (faultsLatched_latch _ .pdoLen)).congr fun b => ?_
      simp only [FaultBit.pos]
      tauto
    · rw [latch_rxCnt, consumeNew_rxCnt, if_neg hlen]
    · rw [latch_mem, consumeNew_mem, if_neg hlen]; rfl
  · rw [if_neg hlen] at h
    rw [Decidable.not_not] at hlen
    obtain ⟨u, hu, ht⟩ := andThen_next h
    cases ht
    obtain ⟨hframe, -, -⟩ := decodeElems_next hu
    have hfault : u.fault = (s.consumeNew i).fault := (congrArg State.fault hframe).trans rfl
    have hfaultNew : u.faultNew = (s.consumeNew i).faultNew := (congrArg State.faultNew hframe).trans rfl
    have hcnt : u.rxCnt = s.rxCnt := (congrArg State.rxCnt hframe).trans (consumeNew_rxCnt s i)
    refine ⟨?_, ?_, ?_, fun hm a => ?_⟩
    · rw [hframe, consumeNew_eq]; rfl
    · refine ((faultsLatched_consumeNew s i).trans
        (faultsLatched_of_eq (t := u.countRx i) hfault hfaultNew)).congr fun b => ?_
      simp [hlen]
    · rw [countRx_rxCnt, hcnt, if_pos hlen]
    · have hp : (s.consumeNew (s.params.slotRx i)).params = s.params := (consumeNew_frame s i).params
      rw [countRx_mem, if_pos hlen, decodeElems_reads (by rw [consumeNew_mem]; exact hm) hu, consumeNew_mem, hp]
      rfl

/-- The decode of one RPDO in a pass does nothing, or decodes a frame that is new (R132, R135, R146). -/
theorem decodeIfNew_cases {sync : Bool} {i : Nat} {s t : State} (h : decodeIfNew sync i s = .next t) :
    (t = s ∧ ∀ c, s.rxEntry i = some c → c.sync = sync → (s.slot i).new = false) ∨
      ∃ c, s.rxEntry i = some c ∧ c.sync = sync ∧ (s.slot i).new = true ∧ Decoded i c s t := by
  unfold decodeIfNew at h
  cases hc : s.rxEntry i with
  | none =>
    rw [hc] at h
    cases h
    exact .inl ⟨rfl, by simp⟩
  | some c =>
    rw [hc] at h
    change (if (c.sync == sync && (s.slot i).new) = true then _ else _) = _ at h
    by_cases hn : (c.sync == sync && (s.slot i).new) = true
    · rw [if_pos hn] at h
      simp only [Bool.and_eq_true, beq_iff_eq] at hn
      exact .inr ⟨c, rfl, hn.1, hn.2, decoded_of_decodeRx hc h⟩
    · rw [if_neg hn] at h
      cases h
      refine .inl ⟨rfl, fun c' hc' hsync => ?_⟩
      cases hc'
      simpa [hsync] using hn

/-! ### What a decode leaves alone -/

theorem getD_modify {α : Type} (l : List α) (i j : Nat) (f : α → α) (d : α) :
    (l.modify i f).getD j d = if i = j ∧ j < l.length then f (l.getD j d) else l.getD j d := by
  simp only [List.getD_eq_getElem?_getD, List.getElem?_modify]
  rcases Nat.lt_or_ge j l.length with hj | hj
  · by_cases hij : i = j <;> simp [hj, hij]
  · simp [Nat.not_lt.mpr hj]

/-- RPDO i's own state is the same: its entry, its slot, its counter. -/
structure SameRpdo (i : Nat) (s t : State) : Prop where
  params : t.params = s.params
  entry  : t.rxEntry i = s.rxEntry i
  slot   : t.slot i = s.slot i
  cnt    : t.rxCnt.getD i 0 = s.rxCnt.getD i 0

theorem SameRpdo.refl (i : Nat) (s : State) : SameRpdo i s s := ⟨rfl, rfl, rfl, rfl⟩

theorem SameRpdo.trans {i : Nat} {s t u : State} (h : SameRpdo i s t) (h' : SameRpdo i t u) : SameRpdo i s u :=
  ⟨h'.params.trans h.params, h'.entry.trans h.entry, h'.slot.trans h.slot, h'.cnt.trans h.cnt⟩

/-- A decode leaves every other RPDO alone. -/
theorem decodeIfNew_same {sync : Bool} {i i' : Nat} {s t : State} (h : decodeIfNew sync i s = .next t) (hne : i' ≠ i) :
    SameRpdo i' s t := by
  obtain ⟨hp, hcrx, -, hslot⟩ := decodeIfNew_local h
  refine ⟨hp, rxEntry_congr hcrx i', hslot i' hne, ?_⟩
  rcases decodeIfNew_cases h with ⟨rfl, -⟩ | ⟨c, -, -, -, hd⟩
  · rfl
  · rw [hd.cnt]
    split
    · rw [getD_modify, if_neg fun h => hne h.1.symm]
    · rfl

/-- Nothing but slots, receive counters, faults and process memory moves in a decode. -/
def DecodeFrame (s t : State) : Prop :=
  t = { s with slots := t.slots, rxCnt := t.rxCnt, fault := t.fault, faultNew := t.faultNew, mem := t.mem }

theorem DecodeFrame.refl (s : State) : DecodeFrame s s := rfl

theorem DecodeFrame.trans {s t u : State} (h : DecodeFrame s t) (h' : DecodeFrame t u) : DecodeFrame s u := by
  unfold DecodeFrame at *
  rw [h', h]

theorem decodeIfNew_decodeFrame {sync : Bool} {i : Nat} {s t : State} (h : decodeIfNew sync i s = .next t) :
    DecodeFrame s t := by
  rcases decodeIfNew_cases h with ⟨rfl, -⟩ | ⟨c, -, -, -, hd⟩
  · rfl
  · rw [DecodeFrame, hd.frame]

/-! ### A loop, seen from one of its passes -/

/-- In a loop each of whose other passes keeps `R`, pass i starts from a state that `R` ties to the first one and ends
in one that `R` ties to the last. -/
theorem forEach_at {P : State → Prop} {R : State → State → Prop} (hrefl : ∀ s, R s s)
    (htrans : ∀ {s t u}, R s t → R t u → R s u) {body : Nat → State → Result} {i : Nat} {is : List Nat}
    (hn : is.Nodup) (hi : i ∈ is) (hother : ∀ i' ∈ is, i' ≠ i → ∀ u v, P u → body i' u = .next v → R u v)
    (hP : ∀ i' ∈ is, ∀ u v, P u → body i' u = .next v → P v) {s t : State} (hs : P s)
    (h : forEach body is s = .next t) : ∃ u v, P u ∧ R s u ∧ body i u = .next v ∧ R v t := by
  induction is generalizing s with
  | nil => cases hi
  | cons i' is ih =>
    obtain ⟨u, hu, ht⟩ := andThen_next h
    rw [List.nodup_cons] at hn
    have hPu : P u := hP i' (List.mem_cons_self ..) s u hs hu
    by_cases hne : i' = i
    · subst hne
      have hrest : P t ∧ R u t := by
        refine forEach_inv (P := fun v => P v ∧ R u v) (fun k hk v w hv hw => ⟨?_, ?_⟩) ⟨hPu, hrefl u⟩ ht
        · exact hP k (.tail _ hk) v w hv.1 hw
        · exact htrans hv.2 (hother k (.tail _ hk) (fun h => hn.1 (h ▸ hk)) v w hv.1 hw)
      exact ⟨s, u, hs, hrefl s, hu, hrest.2⟩
    · obtain ⟨v, w, hv, hR, hb, hRt⟩ := ih hn.2 ((List.mem_cons.mp hi).resolve_left (Ne.symm hne))
        (fun k hk => hother k (.tail _ hk)) (fun k hk => hP k (.tail _ hk)) hPu ht
      exact ⟨v, w, hv, htrans (hother i' (List.mem_cons_self ..) hne s u hs hu) hR, hb, hRt⟩

/-! ### A pass of decodes -/

/-- Induction over a pass of decodes: each finds the RPDOs still to come as the pass found them. -/
theorem decodePass_induction {sync : Bool} {P : List Nat → State → State → Prop} (hnil : ∀ s, P [] s s)
    (hcons : ∀ i is s u t, decodeIfNew sync i s = .next u → (∀ i' ∈ is, SameRpdo i' s u) → P is u t → P (i :: is) s t)
    {is : List Nat} (hn : is.Nodup) {s t : State} (h : forEach (decodeIfNew sync) is s = .next t) : P is s t := by
  induction is generalizing s with
  | nil => cases h; exact hnil _
  | cons i is ih =>
    obtain ⟨u, hu, ht⟩ := andThen_next h
    rw [List.nodup_cons] at hn
    exact hcons i is s u t hu (fun i' hi' => decodeIfNew_same hu fun h => hn.1 (h ▸ hi')) (ih hn.2 ht)

/-- The bytes a pass stores for RPDO i. -/
def State.rxStored (s : State) (sync : Bool) (i : Nat) : List (Word × Byte) :=
  if s.decodes sync i then
    (((s.rxEntry i).map (·.elems)).getD []).flatMap (·.stored s.params (s.slot i).data)
  else []

/-- The addresses a pass stores to for RPDO i. -/
def State.rxStoreAddrs (s : State) (sync : Bool) (i : Nat) : List Word :=
  if s.decodes sync i then (((s.rxEntry i).map (·.elems)).getD []).flatMap Elem.storeAddrs else []

theorem storedBytes_eq (s : State) (sync : Bool) :
    s.storedBytes sync = (List.range s.params.nRpdo).flatMap (s.rxStored sync) := rfl

theorem storeAddrs_eq (s : State) (sync : Bool) :
    s.storeAddrs sync = (List.range s.params.nRpdo).flatMap (s.rxStoreAddrs sync) := rfl

/-- The fault bits a pass latches for RPDO i (R131). -/
def State.rxFaults (s : State) (sync : Bool) (i b : Nat) : Prop :=
  ∃ c, s.rxEntry i = some c ∧ c.sync = sync ∧ (s.slot i).new = true ∧
    (b = 0 ∧ (s.slot i).len ≠ c.totLen ∨ b = 1 ∧ (s.slot i).ovr = true)

theorem decodes_eq {s : State} {i : Nat} {c : RxEntry} (hc : s.rxEntry i = some c) (sync : Bool) :
    s.decodes sync i = (c.sync == sync && (s.slot i).new && (s.slot i).len == c.totLen) := by
  rw [State.decodes, hc]
  rfl

theorem SameRpdo.decodes {i : Nat} {s t : State} (h : SameRpdo i s t) (sync : Bool) :
    t.decodes sync i = s.decodes sync i := by
  simp only [State.decodes, Params.slotRx, h.entry, h.slot]

theorem SameRpdo.rxStored {i : Nat} {s t : State} (h : SameRpdo i s t) (sync : Bool) :
    t.rxStored sync i = s.rxStored sync i := by
  rw [State.rxStored, State.rxStored, h.decodes, h.entry, h.slot, h.params]

theorem SameRpdo.rxStoreAddrs {i : Nat} {s t : State} (h : SameRpdo i s t) (sync : Bool) :
    t.rxStoreAddrs sync i = s.rxStoreAddrs sync i := by
  rw [State.rxStoreAddrs, State.rxStoreAddrs, h.decodes, h.entry]

theorem SameRpdo.rxFaults {i : Nat} {s t : State} (h : SameRpdo i s t) (sync : Bool) (b : Nat) :
    t.rxFaults sync i b ↔ s.rxFaults sync i b := by
  rw [State.rxFaults, State.rxFaults, h.entry, h.slot]

theorem decodeIfNew_reads {sync : Bool} {i : Nat} {s t : State} (hm : s.mem.wf = true)
    (h : decodeIfNew sync i s = .next t) (a : Word) :
    t.mem.read a.toNat = lastStored a (s.mem.read a.toNat) (s.rxStored sync i) := by
  unfold State.rxStored
  rcases decodeIfNew_cases h with ⟨rfl, hquiet⟩ | ⟨c, hc, hsync, hnew, hd⟩
  · cases hc : t.rxEntry i with
    | none => rw [State.decodes, hc]; rfl
    | some c =>
      have hfalse : t.decodes sync i = false := by
        rw [decodes_eq hc]
        by_cases hsync : c.sync = sync
        · simp [hquiet c hc hsync]
        · simp [hsync]
      rw [hfalse]
      rfl
  · rw [hd.mem hm, decodes_eq hc, hc, hsync, hnew]
    by_cases hlen : (s.slot i).len = c.totLen <;> simp [hlen]

theorem decodeIfNew_wf {sync : Bool} {i : Nat} {s t : State} (hm : s.mem.wf = true)
    (h : decodeIfNew sync i s = .next t) : t.mem.wf = true := by
  rcases decodeIfNew_next h with rfl | ⟨-, -, h⟩
  · exact hm
  · exact (decodeRx_mem h).1 hm

theorem decodeIfNew_faults {sync : Bool} {i : Nat} {s t : State} (h : decodeIfNew sync i s = .next t) :
    FaultsLatched s t (s.rxFaults sync i) := by
  rcases decodeIfNew_cases h with ⟨rfl, hquiet⟩ | ⟨c, hc, hsync, hnew, hd⟩
  · refine (faultsLatched_of_eq rfl rfl).congr fun b => ⟨False.elim, ?_⟩
    rintro ⟨c, hc, hsync, hnew, -⟩
    rw [hquiet c hc hsync] at hnew
    cases hnew
  · refine hd.faults.congr fun b => ⟨fun hb => ⟨c, hc, hsync, hnew, hb⟩, ?_⟩
    rintro ⟨c', hc', -, -, hb⟩
    cases hc.symm.trans hc'
    exact hb

/-- R131, R132: the bytes a pass leaves in process memory. -/
theorem decodePass_reads {sync : Bool} {is : List Nat} (hn : is.Nodup) {s t : State} (hm : s.mem.wf = true)
    (h : forEach (decodeIfNew sync) is s = .next t) (a : Word) :
    t.mem.read a.toNat = lastStored a (s.mem.read a.toNat) (is.flatMap (s.rxStored sync)) := by
  refine decodePass_induction (P := fun is s t => s.mem.wf = true → t.mem.read a.toNat =
    lastStored a (s.mem.read a.toNat) (is.flatMap (s.rxStored sync))) (fun _ _ => rfl) ?_ hn h hm
  intro i is s u t hu hsame ih hm
  have hlocal : is.flatMap (u.rxStored sync) = is.flatMap (s.rxStored sync) :=
    List.flatMap_congr fun i' hi' => (hsame i' hi').rxStored sync
  rw [ih (decodeIfNew_wf hm hu), hlocal, decodeIfNew_reads hm hu, List.flatMap_cons, lastStored_append]

/-- R147 (a): a pass stores to the addresses of the elements it decodes only, whatever the memory's form. -/
theorem decodePass_mem_of_not_mem {sync : Bool} {is : List Nat} (hn : is.Nodup) {s t : State}
    (h : forEach (decodeIfNew sync) is s = .next t) {a : Word} (ha : a ∉ is.flatMap (s.rxStoreAddrs sync)) :
    t.mem.read a.toNat = s.mem.read a.toNat := by
  refine decodePass_induction (P := fun is s t => a ∉ is.flatMap (s.rxStoreAddrs sync) → t.mem.read a.toNat =
    s.mem.read a.toNat) (fun _ _ => rfl) ?_ hn h ha
  intro i is s u t hu hsame ih ha
  rw [List.flatMap_cons, List.mem_append, not_or] at ha
  have hlocal : is.flatMap (u.rxStoreAddrs sync) = is.flatMap (s.rxStoreAddrs sync) :=
    List.flatMap_congr fun i' hi' => (hsame i' hi').rxStoreAddrs sync
  rw [ih (hlocal ▸ ha.2)]
  rcases decodeIfNew_next hu with rfl | ⟨⟨c, hc, hsync⟩, hnew, hdecode⟩
  · rfl
  · refine (decodeRx_mem hdecode).2 a fun c' hc' hlen hmem => ha.1 ?_
    have hd : s.decodes sync i = true := by
      rw [hc] at hc'
      cases hc'
      simp [State.decodes, hc, hsync, hnew, hlen]
    rw [State.rxStoreAddrs, hd, if_pos rfl, hc']
    exact hmem

/-- R131, R181: the fault bits a pass latches. -/
theorem decodePass_faults {sync : Bool} {is : List Nat} (hn : is.Nodup) {s t : State}
    (h : forEach (decodeIfNew sync) is s = .next t) : FaultsLatched s t fun b => ∃ i ∈ is, s.rxFaults sync i b := by
  refine decodePass_induction (P := fun is s t => FaultsLatched s t fun b => ∃ i ∈ is, s.rxFaults sync i b)
    (fun _ => (faultsLatched_of_eq rfl rfl).congr fun b => by simp) ?_ hn h
  intro i is s u t hu hsame ih
  refine ((decodeIfNew_faults hu).trans ih).congr fun b => ?_
  have hlocal : (∃ i' ∈ is, u.rxFaults sync i' b) ↔ ∃ i' ∈ is, s.rxFaults sync i' b :=
    exists_congr fun i' => and_congr_right fun hi' => (hsame i' hi').rxFaults sync b
  rw [hlocal]
  simp only [List.mem_cons, exists_eq_or_imp]

theorem decodePass_decodeFrame {sync : Bool} {is : List Nat} {s t : State}
    (h : forEach (decodeIfNew sync) is s = .next t) : DecodeFrame s t :=
  forEach_inv (P := DecodeFrame s) (fun _ _ _ _ hu hv => hu.trans (decodeIfNew_decodeFrame hv)) (DecodeFrame.refl s) h

/-- A pass touches the slots of its RPDOs only. -/
theorem decodePass_slot {sync : Bool} {is : List Nat} {s t : State} (h : forEach (decodeIfNew sync) is s = .next t)
    {k : Nat} (hk : k ∉ is) : t.slot k = s.slot k :=
  forEach_inv (P := fun t => t.slot k = s.slot k)
    (fun _ hi _ _ hu hv => ((decodeIfNew_local hv).2.2.2 k fun h => hk (h ▸ hi)).trans hu) rfl h

/-- A pass decodes RPDO i as its own decode from the first state would, seen from RPDO i. -/
theorem decodePass_at {sync : Bool} {is : List Nat} (hn : is.Nodup) {i : Nat} (hi : i ∈ is) {s t : State}
    (h : forEach (decodeIfNew sync) is s = .next t) :
    ∃ u v, u.slots.length = s.slots.length ∧ u.rxCnt.length = s.rxCnt.length ∧ SameRpdo i s u ∧
      decodeIfNew sync i u = .next v ∧ SameRpdo i v t := by
  have hsize : ∀ i' ∈ is, ∀ u v, (u.slots.length = s.slots.length ∧ u.rxCnt.length = s.rxCnt.length) →
      decodeIfNew sync i' u = .next v → v.slots.length = s.slots.length ∧ v.rxCnt.length = s.rxCnt.length := by
    rintro i' - u v ⟨hslots, hcnt⟩ hb
    rcases decodeIfNew_cases hb with ⟨rfl, -⟩ | ⟨c, -, -, -, hd⟩
    · exact ⟨hslots, hcnt⟩
    · refine ⟨(congrArg (·.slots.length) hd.frame).trans ((modSlot_length ..).trans hslots), ?_⟩
      rw [hd.cnt]
      split <;> simp [hcnt]
  obtain ⟨u, v, ⟨hslots, hcnt⟩, hsu, hb, hvt⟩ := forEach_at (SameRpdo.refl i) SameRpdo.trans hn hi
    (fun i' _ hne u v _ hb => decodeIfNew_same hb hne.symm) hsize ⟨rfl, rfl⟩ h
  exact ⟨u, v, hslots, hcnt, hsu, hb, hvt⟩

/-- R131, R132: a compiled RPDO with a new frame is consumed, and counted when the length fits. -/
theorem decodePass_decoded {sync : Bool} {is : List Nat} (hn : is.Nodup) {i : Nat} (hi : i ∈ is) {s t : State}
    (h : forEach (decodeIfNew sync) is s = .next t) (hcnt : i < s.rxCnt.length) {c : RxEntry}
    (hc : s.rxEntry i = some c) (hsync : c.sync = sync) (hnew : (s.slot i).new = true) :
    t.slot i = { s.slot i with new := false, ovr := false } ∧
      t.rxCnt.getD i 0 = if (s.slot i).len = c.totLen then s.rxCnt.getD i 0 + 1 else s.rxCnt.getD i 0 := by
  obtain ⟨u, v, hlen, hcntlen, hsu, hb, hvt⟩ := decodePass_at hn hi h
  have hlt : i < u.slots.length := by
    by_contra hge
    rw [← hsu.slot, slot_of_ge (Nat.le_of_not_lt hge)] at hnew
    cases hnew
  rcases decodeIfNew_cases hb with ⟨-, hquiet⟩ | ⟨c', hc', -, -, hd⟩
  · rw [← hsu.slot, hquiet c (hsu.entry.trans hc) hsync] at hnew
    cases hnew
  · cases (hsu.entry.trans hc).symm.trans hc'
    constructor
    · rw [hvt.slot, hd.frame]
      change (u.modSlot i fun sl => { sl with new := false, ovr := false }).slot i = _
      rw [slot_modSlot, if_pos ⟨rfl, hlt⟩, hsu.slot]
    · rw [hvt.cnt, hd.cnt, hsu.slot]
      split
      · rw [getD_modify, if_pos ⟨rfl, by omega⟩, hsu.cnt]
      · exact hsu.cnt

/-- R132: any other RPDO is left alone. -/
theorem decodePass_same {sync : Bool} {is : List Nat} (hn : is.Nodup) {i : Nat} {s t : State}
    (h : forEach (decodeIfNew sync) is s = .next t)
    (hquiet : ∀ c, s.rxEntry i = some c → c.sync = sync → (s.slot i).new = false) : SameRpdo i s t := by
  by_cases hi : i ∈ is
  · obtain ⟨u, v, -, -, hsu, hb, hvt⟩ := decodePass_at hn hi h
    rcases decodeIfNew_cases hb with ⟨rfl, -⟩ | ⟨c, hc, hsync, hnew, -⟩
    · exact hsu.trans hvt
    · rw [hsu.slot, hquiet c (hsu.entry.symm.trans hc) hsync] at hnew
      cases hnew
  · exact forEach_inv (P := SameRpdo i s)
      (fun i' hi' u v hu hv => hu.trans (decodeIfNew_same hv fun h => hi (h ▸ hi'))) (SameRpdo.refl i s) h

/-! ### The statement about DecodeRx -/

theorem map_fst_stored (p : Params) (d : FrameBuf) (el : Elem) : (el.stored p d).map (·.1) = el.storeAddrs := by
  unfold Elem.stored Elem.storeAddrs
  cases el.kind with
  | dummy => rfl
  | data => simp [accessAddrs]

theorem map_fst_flatMap_stored (p : Params) (d : FrameBuf) (els : List Elem) :
    (els.flatMap (·.stored p d)).map (·.1) = els.flatMap Elem.storeAddrs := by
  rw [List.map_flatMap]
  exact List.flatMap_congr fun el _ => map_fst_stored p d el

/-- An element as R44 says is at most 8 bytes wide. -/
theorem Elem.w_le_of_wf {el : Elem} (h : el.wf = true) : el.w ≤ 8 := by
  unfold Elem.wf at h
  cases hk : el.kind <;> simp only [hk, Bool.and_eq_true, Bool.or_eq_true, beq_iff_eq, decide_eq_true_eq] at h <;> omega

/-- R44: the elements of a tiling are well formed. -/
theorem wf_of_elemsTile {off tot : Nat} {els : List Elem} (h : elemsTile off tot els = true) :
    ∀ el ∈ els, el.wf = true := by
  induction els generalizing off with
  | nil => simp
  | cons el els ih =>
    simp only [elemsTile, Bool.and_eq_true] at h
    simp only [List.mem_cons, forall_eq_or_imp]
    exact ⟨h.1.2, ih h.2⟩

theorem RxEntry.tile_of_wf {c : RxEntry} (h : c.wf = true) : elemsTile 0 c.totLen c.elems = true := by
  simp only [RxEntry.wf, Bool.and_eq_true] at h
  exact h.2

/-- Byte k of an element is the last one its own decode stores at that address: its addresses differ (R69). -/
theorem lastStored_stored {p : Params} {d : FrameBuf} {el : Elem} (hk : el.kind = .data) (hw : el.w ≤ 8) {k : Nat}
    (hlt : k < el.w) (old : Byte) :
    lastStored (el.addr + BitVec.ofNat 32 k) old (el.stored p d) = el.storedByte p d k := by
  have hstored : el.stored p d =
      ((List.range k).map fun k => (el.addr + BitVec.ofNat 32 k, el.storedByte p d k)) ++
        (el.addr + BitVec.ofNat 32 k, el.storedByte p d k) ::
          ((List.range' (k + 1) (el.w - (k + 1))).map fun k => (el.addr + BitVec.ofNat 32 k, el.storedByte p d k)) := by
    rw [Elem.stored, hk]
    have hsplit : List.range el.w = List.range k ++ k :: List.range' (k + 1) (el.w - (k + 1)) := by
      have hsum : el.w = k + (el.w - (k + 1) + 1) := by omega
      rw [List.range_eq_range', List.range_eq_range', ← List.range'_succ]
      conv_lhs => rw [hsum]
      rw [← List.range'_append_1, Nat.zero_add]
    simp only [hsplit, List.map_append, List.map_cons]
  rw [hstored, lastStored_append]
  change lastStored _ (if _ = _ then _ else _) _ = _
  rw [if_pos rfl, lastStored_of_not_mem]
  rw [List.map_map, List.mem_map]
  rintro ⟨k', hk', heq⟩
  rw [List.mem_range'_1] at hk'
  exact add_ofNat_ne (by omega) (by omega) (by omega) heq

/-- Settles O21: the frame is decoded as `Decoded` says, and the last element that stores to an address decides its
byte. -/
theorem decodeStoresTheElements : Obligations.DecodeStoresTheElements := by
  intro s i c hm hc hwf hadmit
  obtain ⟨t, ht⟩ : ∃ t, decodeRx i s = .next t := by
    have hone : StopsUnless ((s.slot i).len = c.totLen → ∀ a ∈ c.elems.flatMap Elem.storeAddrs,
        s.params.admitsWrite a = true) (decodeRx i s) := by
      unfold decodeRx
      rw [hc]
      change StopsUnless _ (if (s.slot i).len ≠ c.totLen then _ else _)
      by_cases hlen : (s.slot i).len ≠ c.totLen
      · rw [if_pos hlen]
        exact .next fun h => absurd h hlen
      · rw [if_neg hlen]
        have hp := (consumeNew_frame s i).params
        refine ((decodeElems_stops (s.slot i).data c.elems (s.consumeNew i)).andThen (q := True)
          (f := fun s1 => .next (s1.countRx i)) fun _ _ => .next trivial).congr ?_
        rw [hp]
        simp [Decidable.not_not.mp hlen]
    exact hone.runs hadmit
  have hd := decoded_of_decodeRx hc ht
  refine ⟨t, ht, hd.frame, hd.faults, fun hlen => ⟨?_, ?_⟩, fun hlen => ⟨?_, fun a ha => ?_, ?_⟩⟩
  · unfold decodeRx at ht
    rw [hc] at ht
    change (if (s.slot i).len ≠ c.totLen then _ else _) = _ at ht
    rw [if_pos hlen] at ht
    cases ht
    rw [latch_mem, consumeNew_mem]
  · rw [hd.cnt, if_neg hlen]
  · rw [hd.cnt, if_pos hlen]
  · rw [hd.mem hm, if_pos hlen, lastStored_of_not_mem]
    rwa [map_fst_flatMap_stored]
  · intro n el hel hdata k hk hlast
    have hw := Elem.w_le_of_wf (wf_of_elemsTile (RxEntry.tile_of_wf hwf) el (List.mem_of_getElem? hel))
    have hsplit : c.elems = c.elems.take n ++ el :: c.elems.drop (n + 1) := by
      obtain ⟨hlt, heq⟩ := List.getElem?_eq_some_iff.mp hel
      rw [← heq, List.getElem_cons_drop, List.take_append_drop]
    rw [hd.mem hm, if_pos hlen, hsplit, List.flatMap_append, List.flatMap_cons, lastStored_append, lastStored_append,
      lastStored_of_not_mem (by rwa [map_fst_flatMap_stored]), lastStored_stored hdata hw hk]

end Sys2Proof.Machine
end

section
/-! Proofs about the transmit side of the PDO engine (42_pdo_runtime.md R129, R133 to R141). The idea: a sample is a
function of the parameters, process memory and the elements, the evaluation of a TPDO one of its slot and its entry, and
a pass evaluates each TPDO as if it were alone. -/

namespace Sys2Proof.Machine

/-! ### Samples -/

/-- R129: an element's bytes put into the frame. -/
def sampleElem (p : Params) (m : Memory) (buf : FrameBuf) (el : Elem) : FrameBuf :=
  match el.kind with
  | .dummy => buf
  | .data => putBits buf (8 * el.off) (8 * el.w) (encodedValue p el (m.readBytes el.addr el.w))

/-- R133: what EncodeTx samples. -/
def TxEntry.sample (c : TxEntry) (p : Params) (m : Memory) : FrameBuf := c.elems.foldl (sampleElem p m) 0

theorem encodeElem_ok {s : State} {buf b : FrameBuf} {el : Elem} (h : encodeElem s buf el = .ok b) :
    b = sampleElem s.params s.mem buf el := by
  unfold encodeElem memRead at h
  unfold sampleElem
  cases hk : el.kind with
  | dummy => rw [hk] at h; cases h; rfl
  | data =>
    simp only [hk] at h
    by_cases hall : (accessAddrs el.addr el.w).all s.params.admitsRead = true
    · simp only [hall, if_true] at h; cases h; rfl
    · simp only [if_neg hall] at h; cases h

theorem encodeElems_ok {s : State} {buf b : FrameBuf} {els : List Elem} (h : encodeElems s buf els = .ok b) :
    b = els.foldl (sampleElem s.params s.mem) buf := by
  induction els generalizing buf with
  | nil => cases h; rfl
  | cons el els ih =>
    rw [encodeElems] at h
    split at h
    next => cases h
    next buf' hbuf => rw [ih h, encodeElem_ok hbuf, List.foldl_cons]

theorem le_of_elemsTile {off tot : Nat} {els : List Elem} (h : elemsTile off tot els = true) : off ≤ tot := by
  induction els generalizing off with
  | nil => exact (beq_iff_eq.mp h).le
  | cons el els ih =>
    simp only [elemsTile, Bool.and_eq_true] at h
    exact (Nat.le_add_right ..).trans (ih h.2)

/-- R67: byte k of a read. -/
theorem byteAt_readBytes (m : Memory) (a : Word) {w k : Nat} (hw : w ≤ 8) (hk : k < w) :
    byteAt (m.readBytes a w) k = m.read (a + BitVec.ofNat 32 k).toNat := by
  rw [Memory.readBytes, byteAt_leBytes (by simpa [accessAddrs] using hw)]
  simp [accessAddrs, List.getD_eq_getElem?_getD, hk]

/-- R129: byte k of an element in a sample. -/
def Elem.sampledByte (p : Params) (m : Memory) (el : Elem) (k : Nat) : Byte :=
  if el.hooked then byteAt (p.hookTx (el.hookId.getD 0) el.w (m.readBytes el.addr el.w)) k
  else m.read (el.addr + BitVec.ofNat 32 k).toNat

theorem byteAt_encodedValue (p : Params) (m : Memory) {el : Elem} {k : Nat} (hw : el.w ≤ 8) (hk : k < el.w) :
    byteAt (encodedValue p el (m.readBytes el.addr el.w)) k = el.sampledByte p m k := by
  unfold encodedValue Elem.sampledByte
  split
  · rfl
  · exact byteAt_readBytes m _ hw hk

theorem byteAt_sampleElem (p : Params) (m : Memory) (buf : FrameBuf) {el : Elem} (hdata : el.kind = .data)
    (hw : el.w ≤ 8) {k : Nat} (hk : k < 8) : byteAt (sampleElem p m buf el) k =
      if el.off ≤ k ∧ k < el.off + el.w then el.sampledByte p m (k - el.off) else byteAt buf k := by
  unfold sampleElem
  rw [hdata]
  change byteAt (putBits buf _ _ _) k = _
  rw [byteAt_putBits _ _ _ _ _ hk]
  split
  next h => exact byteAt_encodedValue p m hw (by omega)
  next => rfl

/-- R44, R133: a tiling puts each element's bytes at its offset and touches no byte outside the tiling. -/
theorem byteAt_sampleElems (p : Params) (m : Memory) {els : List Elem} {off tot : Nat} (htot : tot ≤ 8)
    (ht : elemsTile off tot els = true) (hdata : ∀ el ∈ els, el.kind = .data) (buf : FrameBuf) :
    (∀ el ∈ els, ∀ k < el.w, byteAt (els.foldl (sampleElem p m) buf) (el.off + k) = el.sampledByte p m k) ∧
      ∀ k < 8, k < off ∨ tot ≤ k → byteAt (els.foldl (sampleElem p m) buf) k = byteAt buf k := by
  induction els generalizing off buf with
  | nil => exact ⟨by simp, fun _ _ _ => rfl⟩
  | cons el els ih =>
    simp only [elemsTile, Bool.and_eq_true, beq_iff_eq] at ht
    obtain ⟨⟨rfl, hwf⟩, hrest⟩ := ht
    have hw := Elem.w_le_of_wf hwf
    have hle := le_of_elemsTile hrest
    rw [List.forall_mem_cons] at hdata
    obtain ⟨hin, hout⟩ := ih hrest hdata.2 (sampleElem p m buf el)
    rw [List.foldl_cons]
    refine ⟨List.forall_mem_cons.mpr ⟨fun k hk => ?_, hin⟩, fun k hk hkout => ?_⟩
    · rw [hout _ (by omega) (.inl (by omega)), byteAt_sampleElem p m buf hdata.1 hw (by omega), if_pos (by omega),
        Nat.add_sub_cancel_left]
    · rw [hout k hk (by omega), byteAt_sampleElem p m buf hdata.1 hw hk, if_neg (by omega)]

/-- R133: EncodeTx's sample is the sample the model's words speak of. -/
theorem TxEntry.isSample_sample {c : TxEntry} (h : c.wf = true) (p : Params) (m : Memory) :
    c.isSample p m (c.sample p m) := by
  simp only [TxEntry.wf, Bool.and_eq_true, List.all_eq_true, beq_iff_eq, decide_eq_true_eq] at h
  obtain ⟨⟨⟨⟨⟨⟨⟨-, htot⟩, -⟩, -⟩, htile⟩, hdata⟩, -⟩, -⟩ := h
  obtain ⟨hin, hout⟩ := byteAt_sampleElems p m htot htile hdata 0
  refine ⟨hin, fun k hk hk8 => (hout k hk8 (.inr hk)).trans ?_⟩
  simp [byteAt]

/-- R138: two frames have the same first n bytes. -/
theorem samePrefix_iff {n : Nat} {a b : FrameBuf} :
    samePrefix n a b = true ↔ ∀ k < n, byteAt a k = byteAt b k := by
  unfold samePrefix
  rw [beq_iff_eq]
  constructor
  · intro h k hk
    apply byte_ext
    intro i hi
    have hbit := congrArg (·.getLsbD (8 * k + i)) h
    have hlt : 8 * k + i < 8 * n := by omega
    simp only [getBits_bit, hlt, decide_true, Bool.true_and, Nat.zero_add] at hbit
    rw [byteAt_getLsbD, byteAt_getLsbD, hbit]
  · intro h
    apply frame_ext
    intro b' _
    rw [getBits_bit, getBits_bit, Nat.zero_add]
    by_cases hlt : b' < 8 * n
    · rw [← byteAt_bit, ← byteAt_bit, h _ (by omega)]
    · simp [hlt]

/-! ### The evaluation of one TPDO -/

/-- R133, R134, R137, R138: a TPDO compiled as `c`, its slot `sl`, hands over its sample. -/
def txMarks (p : Params) (m : Memory) (sl : Slot) (c : TxEntry) (hit : Bool) : Bool :=
  eligible c sl hit && sl.txst == .idle && !(c.chg && c.primed && samePrefix c.totLen (c.sample p m) c.prev)

/-- The engine's transmit side writes slots, CTX, the transmit counters and the chain only. -/
def TxFrame (s t : State) : Prop := t = { s with slots := t.slots, ctx := t.ctx, txCnt := t.txCnt, chain := t.chain }

theorem TxFrame.refl (s : State) : TxFrame s s := rfl

theorem TxFrame.trans {s t u : State} (h : TxFrame s t) (h' : TxFrame t u) : TxFrame s u := by
  unfold TxFrame at *
  rw [h', h]

theorem TxFrame.mem {s t : State} (h : TxFrame s t) : t.mem = s.mem := by
  rw [show t = _ from h]
theorem TxFrame.params {s t : State} (h : TxFrame s t) : t.params = s.params := by
  rw [show t = _ from h]
theorem TxFrame.rxCnt {s t : State} (h : TxFrame s t) : t.rxCnt = s.rxCnt := by
  rw [show t = _ from h]
theorem TxFrame.fault {s t : State} (h : TxFrame s t) : t.fault = s.fault := by
  rw [show t = _ from h]
theorem TxFrame.faultNew {s t : State} (h : TxFrame s t) : t.faultNew = s.faultNew := by
  rw [show t = _ from h]
theorem TxFrame.chainCur {s t : State} (h : TxFrame s t) : t.chainCur = s.chainCur := by
  rw [show t = _ from h]

theorem evaluateTx_of_entry {j : Nat} {mode : TxMode} {hit : Bool} {s t : State} {c : TxEntry}
    (hc : s.txEntry j = some c) (h : evaluateTx j mode hit s = .next t) :
    t = (if txMarks s.params s.mem (s.slot (s.params.slotTx j)) c hit then
      s.markTx j mode (c.sample s.params s.mem) c.totLen else s).consumeTrigger j := by
  unfold evaluateTx at h
  rw [hc] at h
  obtain ⟨u, hu, ht⟩ := andThen_next h
  cases ht
  congr 1
  unfold txMarks
  by_cases he : eligible c (s.slot (s.params.slotTx j)) hit = true
  · rw [if_pos he] at hu
    unfold encodeTx at hu
    rw [hc] at hu
    change (if (s.slot (s.params.slotTx j)).txst ≠ .idle then _ else _) = _ at hu
    by_cases hidle : (s.slot (s.params.slotTx j)).txst ≠ .idle
    · rw [if_pos hidle] at hu
      cases hu
      rw [if_neg (by simp [hidle])]
    · rw [if_neg hidle] at hu
      rw [Decidable.not_not] at hidle
      split at hu
      next => cases hu
      next buf hbuf =>
        cases encodeElems_ok hbuf
        change (if (c.chg && c.primed && samePrefix c.totLen (c.sample s.params s.mem) c.prev) = true then _
          else Host.Outcome.next (s.markTx j mode (c.sample s.params s.mem) c.totLen)) = _ at hu
        by_cases hsame : (c.chg && c.primed && samePrefix c.totLen (c.sample s.params s.mem) c.prev) = true
        · rw [if_pos hsame] at hu
          cases hu
          rw [if_neg (by simp [hsame])]
        · rw [if_neg hsame] at hu
          cases hu
          rw [if_pos (by simp [he, hidle, Bool.eq_false_iff.mpr hsame])]
  · rw [if_neg he] at hu
    cases hu
    rw [if_neg (by simp [he])]

/-- What an evaluation leaves of TPDO j, compiled as `c`: `marked` says whether its sample is handed over. -/
structure Evaluated (j : Nat) (mode : TxMode) (marked : Bool) (c : TxEntry) (s t : State) : Prop where
  frame : TxFrame s t
  slot  : s.params.slotTx j < s.slots.length → t.slot (s.params.slotTx j) =
    if marked then { markSlot mode (c.sample s.params s.mem) c.totLen (s.slot (s.params.slotTx j)) with rtr := false }
    else { s.slot (s.params.slotTx j) with rtr := false }
  entry : t.txEntry j = some (if marked then { c with prev := c.sample s.params s.mem, primed := true, req := false }
    else { c with req := false })
  cnt   : t.txCnt = if marked then s.txCnt.modify j (· + 1) else s.txCnt
  chain : t.chain = if marked then (s.queueTx j mode).chain else s.chain

theorem consumeTrigger_slot (s : State) (j : Nat) (h : s.params.slotTx j < s.slots.length) :
    (s.consumeTrigger j).slot (s.params.slotTx j) = { s.slot (s.params.slotTx j) with rtr := false } := by
  change ((s.modTx j _).modSlot (s.params.slotTx j) fun sl => { sl with rtr := false }).slot (s.params.slotTx j) = _
  rw [slot_modSlot, if_pos ⟨rfl, h⟩]
  rfl

theorem consumeTrigger_txFrame (s : State) (j : Nat) : TxFrame s (s.consumeTrigger j) := rfl

theorem consumeTrigger_entry (s : State) (j : Nat) :
    (s.consumeTrigger j).txEntry j = (s.txEntry j).map fun c => { c with req := false } := by
  change ((s.modTx j _).modSlot _ _).txEntry j = _
  rw [txEntry_modSlot, txEntry_modTx, if_pos rfl]

theorem markTx_slot (s : State) (j : Nat) (mode : TxMode) (buf : FrameBuf) (n : Nat)
    (h : s.params.slotTx j < s.slots.length) :
    (s.markTx j mode buf n).slot (s.params.slotTx j) = markSlot mode buf n (s.slot (s.params.slotTx j)) := by
  rw [slot_congr (t := s.markTx j mode buf n) (s := s.modSlot (s.params.slotTx j) (markSlot mode buf n))
    (markTx_slots s j mode buf n), slot_modSlot, if_pos ⟨rfl, h⟩]

theorem markTx_entry (s : State) (j : Nat) (mode : TxMode) (buf : FrameBuf) (n : Nat) :
    (s.markTx j mode buf n).txEntry j = (s.txEntry j).map fun c => { c with prev := buf, primed := true } := by
  have hctx : (s.markTx j mode buf n).ctx = (s.modTx j fun c => { c with prev := buf, primed := true }).ctx := by
    cases mode <;> rfl
  rw [txEntry_congr hctx, txEntry_modTx, if_pos rfl]

theorem markTx_txFrame (s : State) (j : Nat) (mode : TxMode) (buf : FrameBuf) (n : Nat) :
    TxFrame s (s.markTx j mode buf n) := by cases mode <;> rfl

theorem markTx_txCnt (s : State) (j : Nat) (mode : TxMode) (buf : FrameBuf) (n : Nat) :
    (s.markTx j mode buf n).txCnt = s.txCnt.modify j (· + 1) := by cases mode <;> rfl

theorem markTx_chain (s : State) (j : Nat) (mode : TxMode) (buf : FrameBuf) (n : Nat) :
    (s.markTx j mode buf n).chain = (s.queueTx j mode).chain := by cases mode <;> rfl

theorem markTx_length (s : State) (j : Nat) (mode : TxMode) (buf : FrameBuf) (n : Nat) :
    (s.markTx j mode buf n).slots.length = s.slots.length := by
  rw [markTx_slots]
  exact modSlot_length ..

theorem evaluated_of_evaluateTx {j : Nat} {mode : TxMode} {hit : Bool} {s t : State} {c : TxEntry}
    (hc : s.txEntry j = some c) (h : evaluateTx j mode hit s = .next t) :
    Evaluated j mode (txMarks s.params s.mem (s.slot (s.params.slotTx j)) c hit) c s t := by
  have ht := evaluateTx_of_entry hc h
  cases hm : txMarks s.params s.mem (s.slot (s.params.slotTx j)) c hit with
  | false =>
    rw [hm, if_neg (by simp)] at ht
    subst ht
    refine ⟨rfl, fun hlt => consumeTrigger_slot s j hlt, ?_, rfl, rfl⟩
    rw [consumeTrigger_entry, hc]
    rfl
  | true =>
    rw [hm, if_pos rfl] at ht
    subst ht
    refine ⟨(markTx_txFrame ..).trans (consumeTrigger_txFrame _ j), fun hlt => ?_, ?_, ?_, ?_⟩
    · have hp := (markTx_txFrame s j mode (c.sample s.params s.mem) c.totLen).params
      have hone := consumeTrigger_slot (s.markTx j mode (c.sample s.params s.mem) c.totLen) j
        (by rw [hp, markTx_length]; exact hlt)
      rw [hp, markTx_slot _ _ _ _ _ hlt] at hone
      exact hone
    · rw [consumeTrigger_entry, markTx_entry, hc]
      rfl
    · rw [if_pos rfl]
      exact markTx_txCnt ..
    · rw [if_pos rfl]
      exact markTx_chain ..

/-! ### The evaluations of a pass -/

/-- TPDO j's own state, and the memory it samples, are the same. -/
structure SameTpdo (j : Nat) (s t : State) : Prop where
  params : t.params = s.params
  mem    : t.mem = s.mem
  entry  : t.txEntry j = s.txEntry j
  slot   : t.slot (s.params.slotTx j) = s.slot (s.params.slotTx j)
  cnt    : t.txCnt.getD j 0 = s.txCnt.getD j 0

theorem SameTpdo.refl (j : Nat) (s : State) : SameTpdo j s s := ⟨rfl, rfl, rfl, rfl, rfl⟩

theorem SameTpdo.trans {j : Nat} {s t u : State} (h : SameTpdo j s t) (h' : SameTpdo j t u) : SameTpdo j s u :=
  ⟨h'.params.trans h.params, h'.mem.trans h.mem, h'.entry.trans h.entry,
    (h.params ▸ h'.slot : u.slot (s.params.slotTx j) = t.slot (s.params.slotTx j)).trans h.slot, h'.cnt.trans h.cnt⟩

/-- What one TPDO's turn in PTASK does (R146). -/
theorem asyncTxIf_cases {j : Nat} {s t : State} (h : asyncTxIf j s = .next t) :
    ((s.txEntry j).all (·.sync) = true ∧ t = s) ∨ ∃ c, s.txEntry j = some c ∧ c.sync = false ∧
      Evaluated j .async (txMarks s.params s.mem (s.slot (s.params.slotTx j)) c false) c s t := by
  unfold asyncTxIf at h
  cases hc : s.txEntry j with
  | none => rw [hc] at h; cases h; exact .inl ⟨rfl, rfl⟩
  | some c =>
    rw [hc] at h
    change (if c.sync = true then _ else _) = _ at h
    cases hsync : c.sync with
    | true => rw [if_pos hsync] at h; cases h; exact .inl ⟨hsync, rfl⟩
    | false =>
      rw [if_neg (by simp [hsync])] at h
      exact .inr ⟨c, rfl, hsync, evaluated_of_evaluateTx hc h⟩

/-- A TPDO's entry after one SYNC (R136). -/
def TxEntry.ticked (c : TxEntry) : TxEntry := { c with syncCnt := (syncTick c).1 }

/-- What one TPDO's turn in the RT step does (R135, R136). -/
theorem syncTxIf_cases {j : Nat} {s t : State} (h : syncTxIf j s = .next t) :
    ((s.txEntry j).all (fun c => !c.sync) = true ∧ t = s) ∨ ∃ c, s.txEntry j = some c ∧ c.sync = true ∧
      Evaluated j .sync (txMarks s.params s.mem (s.slot (s.params.slotTx j)) c.ticked (syncTick c).2) c.ticked s t := by
  unfold syncTxIf at h
  cases hc : s.txEntry j with
  | none => rw [hc] at h; cases h; exact .inl ⟨rfl, rfl⟩
  | some c =>
    rw [hc] at h
    change (if c.sync = true then _ else _) = _ at h
    cases hsync : c.sync with
    | false => rw [if_neg (by simp [hsync])] at h; cases h; exact .inl ⟨by simp [hsync], rfl⟩
    | true =>
      rw [if_pos hsync, syncTx] at h
      have hentry : (s.modTx j fun c => { c with syncCnt := (syncTick c).1 }).txEntry j = some c.ticked := by
        rw [txEntry_modTx, if_pos rfl, hc]
        rfl
      obtain ⟨hframe, hslot, hent, hcnt, hchain⟩ := evaluated_of_evaluateTx hentry h
      exact .inr ⟨c, rfl, hsync, hframe, hslot, hent, hcnt, hchain⟩

/-- The turn of another TPDO leaves TPDO j alone. -/
theorem sameTpdo_of_local {j j' : Nat} {s t : State} (hne : j ≠ j')
    (hlocal : t.params = s.params ∧ (∀ k, k ≠ s.params.slotTx j' → t.slot k = s.slot k) ∧
      ∀ i, i ≠ j' → t.txEntry i = s.txEntry i)
    (hcase : t = s ∨ ∃ mode m c, Evaluated j' mode m c s t) : SameTpdo j s t := by
  obtain ⟨hp, hslot, hentry⟩ := hlocal
  rcases hcase with rfl | ⟨mode, m, c, he⟩
  · exact .refl j t
  · refine ⟨hp, he.frame.mem, hentry j hne, hslot _ (by simpa using hne), ?_⟩
    rw [he.cnt]
    split
    · rw [getD_modify, if_neg fun h => hne h.1.symm]
    · rfl

theorem asyncTxIf_same {j j' : Nat} {s t : State} (h : asyncTxIf j' s = .next t) (hne : j ≠ j') : SameTpdo j s t :=
  sameTpdo_of_local hne (asyncTxIf_local h) <| (asyncTxIf_cases h).imp And.right fun ⟨c, _, _, he⟩ => ⟨_, _, c, he⟩

theorem syncTxIf_same {j j' : Nat} {s t : State} (h : syncTxIf j' s = .next t) (hne : j ≠ j') : SameTpdo j s t :=
  sameTpdo_of_local hne (syncTxIf_local h) <| (syncTxIf_cases h).imp And.right fun ⟨_, _, _, he⟩ => ⟨_, _, _, he⟩

theorem asyncTxIf_txFrame {j : Nat} {s t : State} (h : asyncTxIf j s = .next t) :
    TxFrame s t ∧ t.chain = s.chain := by
  rcases asyncTxIf_cases h with ⟨-, rfl⟩ | ⟨c, -, -, he⟩
  · exact ⟨rfl, rfl⟩
  · exact ⟨he.frame, he.chain.trans (by split <;> rfl)⟩

theorem syncTxIf_txFrame {j : Nat} {s t : State} (h : syncTxIf j s = .next t) : TxFrame s t := by
  rcases syncTxIf_cases h with ⟨-, rfl⟩ | ⟨c, -, -, he⟩
  · rfl
  · exact he.frame

theorem asyncTxPass_txFrame {js : List Nat} {s t : State} (h : forEach asyncTxIf js s = .next t) :
    TxFrame s t ∧ t.chain = s.chain :=
  forEach_inv (P := fun t => TxFrame s t ∧ t.chain = s.chain) (fun _ _ _ _ hu hv =>
    ⟨hu.1.trans (asyncTxIf_txFrame hv).1, (asyncTxIf_txFrame hv).2.trans hu.2⟩) ⟨TxFrame.refl s, rfl⟩ h

theorem syncTxPass_txFrame {js : List Nat} {s t : State} (h : forEach syncTxIf js s = .next t) : TxFrame s t :=
  forEach_inv (P := TxFrame s) (fun _ _ _ _ hu hv => hu.trans (syncTxIf_txFrame hv)) (TxFrame.refl s) h

/-- A TPDO that is not asynchronous is left alone by PTASK. -/
theorem asyncTxPass_same {js : List Nat} {j : Nat} {s t : State} (h : forEach asyncTxIf js s = .next t)
    (hj : (s.txEntry j).all (·.sync) = true) : SameTpdo j s t := by
  refine forEach_inv (P := SameTpdo j s) (fun j' _ u v hu hv => ?_) (SameTpdo.refl j s) h
  by_cases hne : j = j'
  · subst hne
    rcases asyncTxIf_cases hv with ⟨-, rfl⟩ | ⟨c, hc, hsync, -⟩
    · exact hu
    · rw [← hu.entry, hc, Option.all_some, hsync] at hj
      cases hj
  · exact hu.trans (asyncTxIf_same hv hne)

/-- A TPDO that is not synchronous is left alone by the RT step. -/
theorem syncTxPass_same {js : List Nat} {j : Nat} {s t : State} (h : forEach syncTxIf js s = .next t)
    (hj : (s.txEntry j).all (fun c => !c.sync) = true) : SameTpdo j s t := by
  refine forEach_inv (P := SameTpdo j s) (fun j' _ u v hu hv => ?_) (SameTpdo.refl j s) h
  by_cases hne : j = j'
  · subst hne
    rcases syncTxIf_cases hv with ⟨-, rfl⟩ | ⟨c, hc, hsync, -⟩
    · exact hu
    · rw [← hu.entry, hc, Option.all_some, hsync] at hj
      cases hj
  · exact hu.trans (syncTxIf_same hv hne)

/-- A pass over TPDOs touches no slot that is none of theirs. -/
theorem txPass_slot {body : Nat → State → Result}
    (hlocal : ∀ {j s t}, body j s = .next t → t.params = s.params ∧ (∀ k, k ≠ s.params.slotTx j → t.slot k = s.slot k) ∧
      ∀ i, i ≠ j → t.txEntry i = s.txEntry i)
    {js : List Nat} {s t : State} (h : forEach body js s = .next t) {k : Nat} (hk : ∀ j ∈ js, k ≠ s.params.slotTx j) :
    t.slot k = s.slot k := by
  refine (forEach_inv (P := fun t => t.params = s.params ∧ t.slot k = s.slot k) (fun j hj u v hu hv => ?_)
    ⟨rfl, rfl⟩ h).2
  obtain ⟨hp, hslot, -⟩ := hlocal hv
  exact ⟨hp.trans hu.1, (hslot k (by rw [hu.1]; exact hk j hj)).trans hu.2⟩

/-- What the evaluation of TPDO j, alone, leaves of it. -/
structure SentAs (j : Nat) (mode : TxMode) (marked : Bool) (c : TxEntry) (s t : State) : Prop where
  slot  : t.slot (s.params.slotTx j) =
    if marked then { markSlot mode (c.sample s.params s.mem) c.totLen (s.slot (s.params.slotTx j)) with rtr := false }
    else { s.slot (s.params.slotTx j) with rtr := false }
  entry : t.txEntry j = some (if marked then { c with prev := c.sample s.params s.mem, primed := true, req := false }
    else { c with req := false })
  cnt   : t.txCnt.getD j 0 = if marked then s.txCnt.getD j 0 + 1 else s.txCnt.getD j 0

/-- An evaluation between two states that TPDO j does not tell from the pass's ends. -/
theorem Evaluated.sentAs {j : Nat} {mode : TxMode} {m : Bool} {c : TxEntry} {s u v t : State} (hu : ShapeInv u)
    (hsu : SameTpdo j s u) (he : Evaluated j mode m c u v) (hvt : SameTpdo j v t) (hj : j < s.params.nTpdo) :
    SentAs j mode m c s t := by
  have hv := he.frame.params.trans hsu.params
  have hlt : u.params.slotTx j < u.slots.length := by
    rw [hu.slots]
    exact slotTx_lt _ (by rwa [hsu.params])
  refine ⟨?_, ?_, ?_⟩
  · rw [← hv, hvt.slot, he.frame.params, he.slot hlt, hsu.params, hsu.mem, hsu.slot]
  · rw [hvt.entry, he.entry, hsu.params, hsu.mem]
  · rw [hvt.cnt, he.cnt, ← hsu.cnt]
    cases m with
    | false => rfl
    | true =>
      have hcnt : j < u.txCnt.length := by rwa [hu.txCnt, hsu.params]
      rw [if_pos rfl, if_pos rfl, getD_modify, if_pos ⟨rfl, hcnt⟩]

/-- R146: PTASK's evaluation of an asynchronous TPDO. -/
theorem asyncTxPass_sentAs {js : List Nat} (hn : js.Nodup) {j : Nat} (hj : j ∈ js) {s t : State} (hi : Inv s)
    (hlt : j < s.params.nTpdo) (h : forEach asyncTxIf js s = .next t) {c : TxEntry} (hc : s.txEntry j = some c)
    (hsync : c.sync = false) :
    SentAs j .async (txMarks s.params s.mem (s.slot (s.params.slotTx j)) c false) c s t := by
  obtain ⟨u, v, hu, hsu, hb, hvt⟩ := forEach_at (SameTpdo.refl j) SameTpdo.trans hn hj
    (fun _ _ hne _ _ _ hb => asyncTxIf_same hb hne.symm) (fun _ _ _ _ hu hb => asyncTxIf_inv hu hb) hi h
  rcases asyncTxIf_cases hb with ⟨hall, -⟩ | ⟨c', hc', -, he⟩
  · rw [hsu.entry, hc, Option.all_some, hsync] at hall
    cases hall
  · cases (hsu.entry.symm.trans hc').symm.trans hc
    rw [hsu.params, hsu.mem, hsu.slot] at he
    exact he.sentAs hu.shape hsu hvt hlt

/-- R135, R136: the RT step's evaluation of a synchronous TPDO. -/
theorem syncTxPass_sentAs {js : List Nat} (hn : js.Nodup) {j : Nat} (hj : j ∈ js) {s t : State} (hi : Inv s)
    (hlt : j < s.params.nTpdo) (h : forEach syncTxIf js s = .next t) {c : TxEntry} (hc : s.txEntry j = some c)
    (hsync : c.sync = true) :
    SentAs j .sync (txMarks s.params s.mem (s.slot (s.params.slotTx j)) c.ticked (syncTick c).2) c.ticked s t := by
  obtain ⟨u, v, hu, hsu, hb, hvt⟩ := forEach_at (SameTpdo.refl j) SameTpdo.trans hn hj
    (fun _ _ hne _ _ _ hb => syncTxIf_same hb hne.symm) (fun _ _ _ _ hu hb => syncTxIf_inv hu hb) hi h
  rcases syncTxIf_cases hb with ⟨hall, -⟩ | ⟨c', hc', -, he⟩
  · rw [hsu.entry, hc, Option.all_some, hsync] at hall
    cases hall
  · cases (hsu.entry.symm.trans hc').symm.trans hc
    rw [hsu.params, hsu.mem, hsu.slot] at he
    exact he.sentAs hu.shape hsu hvt hlt

end Sys2Proof.Machine
end

section
/-! Proofs of the whole-machine rules that say which steps may touch which state (60_exceptions.md R177, R181, R182;
70_reset_and_hazards.md R211 to R213). The idea: one relation collects what most steps keep, each operation keeps it,
and the few that do not are told apart by the step. -/

namespace Sys2Proof.Machine

/-! ### What is kept -/

/-- R181, R182: a fault bit that is latched and reported stays so. -/
def FaultsKept (s t : State) : Prop :=
  ∀ b < 5, s.fault.getLsbD b = true → s.faultNew.getLsbD b = false →
    t.fault.getLsbD b = true ∧ t.faultNew.getLsbD b = false

theorem FaultsLatched.kept {s t : State} {cond : Nat → Prop} (h : FaultsLatched s t cond) : FaultsKept s t := by
  intro b hb hf hn
  obtain ⟨hfault, hnew⟩ := h b hb
  refine ⟨hfault.mpr (.inl hf), ?_⟩
  rw [← Bool.not_eq_true, hnew]
  simp [hf, hn]

/-- The part of a compiled TPDO that PCREATE alone writes (R43). -/
def TxEntry.static (c : TxEntry) : Nat × Bool × TxClass × BitVec 8 × Bool × List Elem :=
  (c.totLen, c.sync, c.cls, c.ncyc, c.chg, c.elems)

/-- What every command but FCLR, the RT step and most events keep: the parameters, what the host writes, a reported
fault, the EMCY registers' cover, and that only a delivery makes a frame new. -/
structure Apart (s t : State) : Prop where
  params : t.params = s.params
  arg0   : t.arg0 = s.arg0
  arg1   : t.arg1 = s.arg1
  defRx  : t.defRx = s.defRx
  defTx  : t.defTx = s.defTx
  faults : FaultsKept s t
  new    : ∀ k, (t.slot k).new = true → (s.slot k).new = true
  alarm  : AlarmInv s → AlarmInv t

/-- What all of them but PCREATE and PDESTROY keep: the compiled set, too (R211). -/
structure Kept (s t : State) : Prop extends Apart s t where
  crx    : t.crx = s.crx
  active : t.active = s.active
  static : ∀ j, (t.txEntry j).map TxEntry.static = (s.txEntry j).map TxEntry.static

theorem Apart.trans {s t u : State} (h : Apart s t) (h' : Apart t u) : Apart s u where
  params := h'.params.trans h.params
  arg0 := h'.arg0.trans h.arg0
  arg1 := h'.arg1.trans h.arg1
  defRx := h'.defRx.trans h.defRx
  defTx := h'.defTx.trans h.defTx
  faults b hb hf hn := h'.faults b hb (h.faults b hb hf hn).1 (h.faults b hb hf hn).2
  new k hk := h.new k (h'.new k hk)
  alarm ha := h'.alarm (h.alarm ha)

theorem Kept.trans {s t u : State} (h : Kept s t) (h' : Kept t u) : Kept s u where
  toApart := h.toApart.trans h'.toApart
  crx := h'.crx.trans h.crx
  active := h'.active.trans h.active
  static j := (h'.static j).trans (h.static j)

/-- None of this sees the other registers, the chain, the counters, process memory or the schedule. -/
theorem kept_of_frame {s t : State} (h : t = { s with
    status := t.status, res0 := t.res0, res1 := t.res1, cfgErr := t.cfgErr, irqEn := t.irqEn, emcyInh := t.emcyInh,
    emcyCobId := t.emcyCobId, syncCobId := t.syncCobId, syncInstalled := t.syncInstalled, validIn := t.validIn,
    chain := t.chain, chainCur := t.chainCur, rxCnt := t.rxCnt, txCnt := t.txCnt, mem := t.mem, inputs := t.inputs,
    response := t.response }) : Kept s t := by
  rw [h]
  exact ⟨⟨rfl, rfl, rfl, rfl, rfl, fun _ _ hf hn => ⟨hf, hn⟩, fun _ hk => hk, id⟩, rfl, rfl, fun _ => rfl⟩

theorem Kept.refl (s : State) : Kept s s := kept_of_frame rfl

theorem kept_finish (s : State) (c : Status) : Kept s (s.finish c) := kept_of_frame rfl

theorem kept_modSlot (s : State) (k : Nat) {f : Slot → Slot} (hf : ∀ sl, (f sl).new = true → sl.new = true) :
    Kept s (s.modSlot k f) := by
  refine ⟨⟨rfl, rfl, rfl, rfl, rfl, fun _ _ hf hn => ⟨hf, hn⟩, fun k' hk => ?_, id⟩, rfl, rfl, fun _ => rfl⟩
  rw [slot_modSlot] at hk
  split at hk
  next hkk => rw [hkk.1]; exact hf _ hk
  next => exact hk

theorem kept_modTx (s : State) (j : Nat) {f : TxEntry → TxEntry} (hf : ∀ c, (f c).static = c.static) :
    Kept s (s.modTx j f) := by
  refine ⟨⟨rfl, rfl, rfl, rfl, rfl, fun _ _ hf hn => ⟨hf, hn⟩, fun _ hk => hk, id⟩, rfl, rfl, fun j' => ?_⟩
  rw [txEntry_modTx]
  split
  next hj =>
    rw [hj, Option.map_map]
    exact congrArg (Option.map · _) (funext hf)
  next => rfl

theorem kept_latch (s : State) (b : FaultBit) : Kept s (s.latch b) := by
  have hfaults := (faultsLatched_latch s b).kept
  have hstate := latch_eq s b
  refine ⟨⟨latch_params .., latch_arg0 .., latch_arg1 .., latch_defRx .., latch_defTx .., hfaults, fun k hk => ?_,
    fun ha => ?_⟩, latch_crx .., latch_active .., fun j => congrArg _ (txEntry_latch ..)⟩
  · rwa [slot_latch] at hk
  · rw [hstate]
    exact ha

/-! ### The engine keeps it -/

theorem consumeNew_kept (s : State) (k : Nat) : Kept s (s.consumeNew k) := by
  have hmod : Kept s (s.modSlot k fun sl => { sl with new := false, ovr := false }) :=
    kept_modSlot s k fun _ h => by cases h
  unfold State.consumeNew
  split
  · exact hmod.trans (kept_latch ..)
  · exact hmod

theorem decodeIfNew_kept {sync : Bool} {i : Nat} {s t : State} (h : decodeIfNew sync i s = .next t) : Kept s t := by
  have hfaults := (decodeIfNew_faults h).kept
  rcases decodeIfNew_cases h with ⟨rfl, -⟩ | ⟨c, -, -, -, hd⟩
  · exact Kept.refl t
  · have hmod := kept_modSlot s i (f := fun sl => { sl with new := false, ovr := false }) fun _ h => by cases h
    obtain ⟨⟨hp, h0, h1, hrx, htx, -, hnew, halarm⟩, hcrx, hact, hstatic⟩ := hmod
    have hframe := hd.frame
    refine ⟨⟨?_, ?_, ?_, ?_, ?_, hfaults, ?_, ?_⟩, ?_, ?_, ?_⟩ <;> rw [hframe] <;> assumption

theorem consumeTrigger_kept (s : State) (j : Nat) : Kept s (s.consumeTrigger j) := by
  have htx : Kept s (s.modTx j fun c => { c with req := false }) := kept_modTx s j fun _ => rfl
  exact htx.trans (kept_modSlot _ (s.params.slotTx j) (f := fun sl => { sl with rtr := false }) fun _ h => h)

theorem markTx_kept (s : State) (j : Nat) (mode : TxMode) (buf : FrameBuf) (n : Nat) : Kept s (s.markTx j mode buf n) := by
  have htx : Kept s (s.modTx j fun c => { c with prev := buf, primed := true }) := kept_modTx s j fun _ => rfl
  refine ((htx.trans (kept_of_frame rfl : Kept _ (State.countTx _ j))).trans
    (kept_modSlot _ (s.params.slotTx j) (f := markSlot mode buf n) fun _ h => h)).trans ?_
  cases mode <;> exact kept_of_frame rfl

theorem evaluateTx_kept {j : Nat} {mode : TxMode} {hit : Bool} {s t : State} (h : evaluateTx j mode hit s = .next t) :
    Kept s t := by
  rcases evaluateTx_next h with ⟨-, rfl⟩ | ⟨c, -, u, rfl, rfl | ⟨-, hu⟩⟩
  · exact Kept.refl t
  · exact consumeTrigger_kept u j
  · rcases encodeTx_next hu with rfl | ⟨c, buf, -, -, -, -, rfl⟩
    · exact consumeTrigger_kept u j
    · exact (markTx_kept ..).trans (consumeTrigger_kept ..)

theorem asyncTxIf_kept {j : Nat} {s t : State} (h : asyncTxIf j s = .next t) : Kept s t := by
  unfold asyncTxIf at h
  split at h
  · cases h; exact Kept.refl s
  · split at h
    · cases h; exact Kept.refl s
    · exact evaluateTx_kept h

theorem syncTxIf_kept {j : Nat} {s t : State} (h : syncTxIf j s = .next t) : Kept s t := by
  unfold syncTxIf at h
  split at h
  · cases h; exact Kept.refl s
  · split at h
    next c _ _ =>
      have htick : Kept s (s.modTx j fun c' => { c' with syncCnt := (syncTick c').1 }) := kept_modTx s j fun _ => rfl
      exact htick.trans (evaluateTx_kept h)
    · cases h; exact Kept.refl s

theorem forEach_kept {body : Nat → State → Result} (hb : ∀ {i s t}, body i s = .next t → Kept s t) {is : List Nat}
    {s t : State} (h : forEach body is s = .next t) : Kept s t :=
  forEach_inv (P := Kept s) (fun _ _ _ _ hu hv => hu.trans (hb hv)) (Kept.refl s) h

theorem issueChain_kept (s : State) : Kept s s.issueChain := by
  unfold State.issueChain
  split
  next j _ _ _ =>
    exact (kept_modSlot s (s.params.slotTx j) (f := fun sl => { sl with txst := .ready }) fun _ h => h).trans
      (kept_of_frame rfl)
  next => exact Kept.refl s

/-- R146: an asynchronous pass is its decodes, then its evaluations. -/
theorem asyncPass_parts {s t : State} (h : asyncPass s = .next t) :
    ∃ u, forEach (decodeIfNew false) (List.range s.params.nRpdo) s = .next u ∧
      forEach asyncTxIf (List.range s.params.nTpdo) u = .next t := by
  obtain ⟨u, hu, ht⟩ := andThen_next h
  refine ⟨u, hu, ?_⟩
  rwa [(forEach_frame (fun _ _ _ hb => decodeIfNew_frame hb) hu).params] at ht

/-- R135: an RT step of an active set consumes the SYNC, decodes, evaluates, and issues the chain. -/
theorem rtStep_parts {s t : State} (ha : s.active = true) (h : rtStep s = .next t) :
    ∃ u v, forEach (decodeIfNew true) (List.range s.params.nRpdo) (s.consumeNew s.params.syncS) = .next u ∧
      forEach syncTxIf (List.range s.params.nTpdo) u = .next v ∧ t = v.issueChain := by
  unfold rtStep at h
  rw [if_pos ha] at h
  obtain ⟨u, hu, h⟩ := andThen_next h
  obtain ⟨v, hv, h⟩ := andThen_next h
  cases h
  have hp := (consumeNew_frame s s.params.syncS).params
  rw [(forEach_frame (fun _ _ _ hb => decodeIfNew_frame hb) hu).params, hp] at hv
  rw [hp] at hu
  exact ⟨u, v, hu, hv, rfl⟩

theorem asyncPass_kept {s t : State} (h : asyncPass s = .next t) : Kept s t := by
  obtain ⟨u, hu, ht⟩ := asyncPass_parts h
  exact (forEach_kept decodeIfNew_kept hu).trans (forEach_kept asyncTxIf_kept ht)

theorem rtStep_kept {s t : State} (h : rtStep s = .next t) : Kept s t := by
  cases ha : s.active with
  | true =>
    obtain ⟨u, v, hu, hv, rfl⟩ := rtStep_parts ha h
    exact (((consumeNew_kept ..).trans (forEach_kept decodeIfNew_kept hu)).trans (forEach_kept syncTxIf_kept hv)).trans
      (issueChain_kept v)
  | false =>
    rw [rtStep, ha] at h
    cases h
    exact consumeNew_kept ..

/-! ### The commands keep it -/

theorem composeEmcy_kept (s : State) : Kept s s.composeEmcy := kept_modSlot _ _ fun _ h => h

theorem emcyEnd_kept {s u : State} (hu : Kept s u) : Kept s (s.emcyEnd u) := by
  unfold State.emcyEnd
  split
  · exact hu.trans (kept_finish ..)
  · split
    · exact kept_finish ..
    · exact (hu.trans (composeEmcy_kept u)).trans (kept_finish ..)

/-- R153: an alarm is recorded with the registers. -/
theorem raiseAlarm_kept (s : State) (code : BitVec 16) : Kept s (s.raiseAlarm code) :=
  ⟨⟨rfl, rfl, rfl, rfl, rfl, fun _ _ hf hn => ⟨hf, hn⟩, fun _ hk => hk, fun _ h => by cases h⟩, rfl, rfl, fun _ => rfl⟩

/-- R155: the registers fall with ALARMS. -/
theorem clearAlarms_kept (s : State) : Kept s s.clearAlarms :=
  ⟨⟨rfl, rfl, rfl, rfl, rfl, fun _ _ hf hn => ⟨hf, hn⟩, fun _ hk => hk, fun _ _ => ⟨rfl, rfl, rfl⟩⟩, rfl, rfl,
    fun _ => rfl⟩

theorem installSlot_new {fresh : Bool} {id : CobId} {sl : Slot} (h : (installSlot fresh id sl).new = true) :
    sl.new = true := by
  unfold installSlot at h
  split at h
  · cases h
  · exact h

theorem install_kept (s : State) : Kept s s.install := by
  unfold State.install
  split
  · exact (kept_modSlot s _ fun _ => installSlot_new).trans (kept_of_frame rfl)
  · exact (kept_modSlot s s.params.syncS (f := removeSlot) fun _ h => by cases h).trans (kept_of_frame rfl)

theorem exec_scobid_kept {s t : State} (h : exec .scobid s = .next t) : Kept s t := by
  rw [exec_scobid] at h
  cases h
  split
  · exact (((kept_of_frame rfl : Kept s { s with syncCobId := cobInvalidate s.arg0 }).trans (kept_latch _ .syncCobId)).trans
      (install_kept _)).trans (kept_finish ..)
  · exact ((kept_of_frame rfl : Kept s { s with syncCobId := s.arg0 }).trans (install_kept _)).trans (kept_finish ..)

/-- R211: no command but PCREATE and PDESTROY touches the compiled set, and FCLR alone clears reported faults. -/
theorem exec_kept {i : Instr} (hcreate : i ≠ .pcreate) (hdestroy : i ≠ .pdestroy) (hfclr : i ≠ .fclr) {s t : State}
    (h : exec i s = .next t) : Kept s t := by
  cases i with
  | nop => cases h; exact kept_finish ..
  | fget slot boff blen =>
    rw [exec_fget] at h
    cases h
    split <;> exact kept_of_frame rfl
  | fput slot boff blen =>
    rw [exec_fput] at h
    cases h
    split
    · exact kept_finish ..
    · split
      · exact kept_finish ..
      · have hput : Kept s (s.modSlot slot fun sl => { sl with data := putBits (s.slot slot).data boff blen s.val64 }) :=
          kept_modSlot s slot fun _ h => h
        exact hput.trans (kept_finish ..)
  | pcreate => exact absurd rfl hcreate
  | pdestroy => exact absurd rfl hdestroy
  | ptxreq tpdo =>
    cases h
    split
    · exact kept_finish ..
    · split
      · exact kept_finish ..
      · have hreq : Kept s (s.modTx tpdo fun c => { c with req := true }) := kept_modTx s tpdo fun _ => rfl
        exact hreq.trans (kept_finish ..)
  | ptask =>
    rcases exec_ptask_cases h with ⟨-, u, hu, rfl⟩ | ⟨-, rfl⟩
    · exact (asyncPass_kept hu).trans (kept_finish ..)
    · exact kept_finish ..
  | ealarm code =>
    rw [exec_ealarm] at h
    cases h
    split
    · exact kept_finish ..
    · exact emcyEnd_kept (raiseAlarm_kept s code)
  | eclear =>
    rw [exec_eclear] at h
    cases h
    split
    · exact kept_finish ..
    · exact emcyEnd_kept (clearAlarms_kept s)
  | eforce =>
    rw [exec_eforce] at h
    cases h
    split
    · exact kept_finish ..
    · exact emcyEnd_kept (Kept.refl s)
  | ecobid =>
    rw [exec_ecobid] at h
    cases h
    split
    · exact ((kept_of_frame rfl : Kept s { s with emcyCobId := cobInvalidate s.arg0 }).trans
        (kept_latch _ .emcyCobId)).trans (kept_finish ..)
    · exact kept_of_frame rfl
  | scobid => exact exec_scobid_kept h
  | svalid =>
    cases h
    exact ((kept_of_frame rfl : Kept s { s with validIn := s.arg0.extractLsb' 0 3 == 0 }).trans (install_kept _)).trans
      (kept_finish ..)
  | fack =>
    cases h
    exact ⟨⟨rfl, rfl, rfl, rfl, rfl, fun _ _ hf _ => ⟨hf, BitVec.getLsbD_zero⟩, fun _ hk => hk, id⟩, rfl, rfl, fun _ => rfl⟩
  | fclr => exact absurd rfl hfclr

/-- A pass over the PDO slots that makes no frame new makes no frame new. -/
theorem new_of_pdoPass {s t : State} {rx tx : Nat → Slot → Slot} (h : t.slots = s.slots.mapIdx (pdoPass s.params rx tx))
    (hrx : ∀ i sl, (rx i sl).new = true → sl.new = true) (htx : ∀ j sl, (tx j sl).new = true → sl.new = true) {k : Nat}
    (hk : (t.slot k).new = true) : (s.slot k).new = true := by
  rw [slot_eq, h, List.getElem?_mapIdx] at hk
  rw [slot_eq]
  cases hs : s.slots[k]? with
  | none => rw [hs] at hk; cases hk
  | some sl =>
    rw [hs] at hk
    change (pdoPass s.params rx tx k sl).new = true at hk
    change sl.new = true
    unfold pdoPass at hk
    split at hk
    · exact hrx _ _ hk
    · split at hk
      · exact htx _ _ hk
      · exact hk

theorem commit_apart (s : State) (st : Staged) : Apart s (s.commit st) := by
  refine ⟨rfl, rfl, rfl, rfl, rfl, fun _ _ hf hn => ⟨hf, hn⟩, fun k => new_of_pdoPass (commit_slots s st) ?_ ?_, id⟩
  · intro i sl h
    cases h
  · intro j sl h
    unfold commitTxSlot at h
    split at h <;> cases h

theorem exec_pcreate_apart {s t : State} (h : exec .pcreate s = .next t) : Apart s t := by
  rcases exec_pcreate_cases s with ⟨-, hp⟩ | ⟨-, -, hp⟩ | ⟨-, -, ⟨f, -, hp⟩ | ⟨st, -, hp⟩⟩ <;> rw [hp] at h <;> cases h
  · exact (kept_finish ..).toApart
  · exact (kept_finish ..).toApart
  · exact (((kept_of_frame rfl : Kept s { s with cfgErr := f.word }).trans (kept_latch _ .pdoCfg)).trans
      (kept_finish ..)).toApart
  · exact (commit_apart s st).trans (kept_finish ..).toApart

theorem destroySet_apart (s : State) : Apart s s.destroySet :=
  ⟨rfl, rfl, rfl, rfl, rfl, fun _ _ hf hn => ⟨hf, hn⟩, fun _ => new_of_pdoPass (destroySet_slots s)
    (fun _ _ h => by cases h) fun _ _ h => h, id⟩

/-- Every command but FCLR leaves this apart. -/
theorem exec_apart {i : Instr} (hfclr : i ≠ .fclr) {s t : State} (h : exec i s = .next t) : Apart s t := by
  by_cases hcreate : i = .pcreate
  · subst hcreate
    exact exec_pcreate_apart h
  · by_cases hdestroy : i = .pdestroy
    · subst hdestroy
      cases h
      split
      · exact (destroySet_apart s).trans (kept_finish ..).toApart
      · exact (kept_finish ..).toApart
    · exact (exec_kept hcreate hdestroy hfclr h).toApart

/-! ### The agents' steps keep it -/

theorem evDone_kept (k : Nat) (ok : Bool) (s : State) : Kept s (evDone k ok s) := by
  have hfree : Kept s (s.modSlot k fun sl => { sl with txst := .idle, txOk := ok }) := kept_modSlot s k fun _ h => h
  unfold evDone State.advanceChain
  refine hfree.trans ?_
  split
  · exact Kept.refl _
  · split
    · exact (kept_of_frame rfl : Kept _ { (s.modSlot k _) with chainCur := none }).trans (issueChain_kept _)
    · exact Kept.refl _

/-- Every agent's step but a register write, a delivery and a reset keeps it. -/
theorem perform_kept {x : Input} {s t : State} (hwrite : x.isHostWrite = false) (hrx : ∀ k bytes, x ≠ .evRx k bytes)
    (hreset : x ≠ .resetInput) (h : perform x s = .next t) : Kept s t := by
  cases x with
  | hostRead addr width =>
    cases h
    unfold hostRead
    split <;> exact kept_of_frame rfl
  | hostWrite addr width v => cases hwrite
  | rtStep => exact rtStep_kept h
  | evRx k bytes => exact absurd rfl (hrx k bytes)
  | evRtr k => cases h; exact kept_modSlot s k fun _ h => h
  | evTake k => cases h; exact kept_modSlot s k fun _ h => h
  | evDone k ok => cases h; exact evDone_kept k ok s
  | evInh k b => cases h; exact kept_modSlot s k fun _ h => h
  | evBlk k b => cases h; exact kept_modSlot s k fun _ h => h
  | app a w v => cases h; exact kept_of_frame rfl
  | resetInput => exact absurd rfl hreset

/-- R177, R182, R184: STATUS, RES0 and RES1 are the same. -/
structure SameReport (s t : State) : Prop where
  status : t.status = s.status
  res0   : t.res0 = s.res0
  res1   : t.res1 = s.res1

theorem EngineFrame.report {s t : State} (h : EngineFrame s t) : SameReport s t := by
  rw [show t = _ from h]
  exact ⟨rfl, rfl, rfl⟩

theorem evDone_frame (k : Nat) (ok : Bool) (s : State) : EngineFrame s (evDone k ok s) := by
  unfold evDone State.advanceChain
  have hfree : EngineFrame s (s.modSlot k fun sl => { sl with txst := .idle, txOk := ok }) := rfl
  refine hfree.trans ?_
  split
  · exact EngineFrame.refl _
  · split
    · exact EngineFrame.trans (t := { (s.modSlot k _) with chainCur := none }) rfl (issueChain_frame _)
    · exact EngineFrame.refl _

theorem perform_report {x : Input} {s t : State} (hwrite : x.isHostWrite = false) (hreset : x ≠ .resetInput)
    (h : perform x s = .next t) : SameReport s t := by
  cases x with
  | hostRead addr width =>
    cases h
    unfold hostRead
    split <;> exact ⟨rfl, rfl, rfl⟩
  | hostWrite addr width v => cases hwrite
  | rtStep => exact (rtStep_frame h).report
  | evRx k bytes => cases h; exact ⟨rfl, rfl, rfl⟩
  | evRtr k => cases h; exact ⟨rfl, rfl, rfl⟩
  | evTake k => cases h; exact ⟨rfl, rfl, rfl⟩
  | evDone k ok => cases h; exact (evDone_frame k ok s).report
  | evInh k b => cases h; exact ⟨rfl, rfl, rfl⟩
  | evBlk k b => cases h; exact ⟨rfl, rfl, rfl⟩
  | app a w v => cases h; exact ⟨rfl, rfl, rfl⟩
  | resetInput => exact absurd rfl hreset

/-- What a step that is taken can be, for these rules: it keeps all, delivers a frame, resets the block, writes a
register that is not CMD, or runs a command. -/
inductive StepKind (x : Input) (s t : State) : Prop
  | kept (hw : x.isHostWrite = false) (h : Kept s t) (hr : SameReport s t)
  | delivered (k : Nat) (bytes : List Byte) (hx : x = .evRx k bytes) (h : t = evRx k bytes s)
  | reset (hx : x = .resetInput) (h : t = resetBlock s)
  | written (hw : x.isHostWrite = true) (hc : x.commandWord = none) (u : State) (r : Response)
      (hu : u = s ∨ ∃ reg v, u = s.writeReg reg v) (h : t = u.answer r)
  | illegal (c : Word) (hc : x.commandWord = some c) (h : t = (s.answer .written).finish .illegal)
  | command (c : Word) (i : Instr) (hc : x.commandWord = some c) (hd : decode c = .ok i)
      (h : exec i (s.answer .written) = .next t)

theorem hostWrite_kind {a : BitVec 16} {w : AccessWidth} {v : Word} {s t : State} (h : hostWrite a w v s = .next t) :
    StepKind (.hostWrite a w v) s t := by
  rcases hostWrite_cases a w v s with ⟨hc, he⟩ | ⟨hc, ⟨r, he⟩ | he⟩
  · rcases runCommand_cases v (s.answer .written) with ⟨i, hd, hr⟩ | ⟨-, hr⟩
    · exact .command v i hc hd (hr ▸ he ▸ h)
    · rw [he, hr] at h
      cases h
      exact .illegal v hc rfl
  · rw [he] at h
    cases h
    exact .written rfl hc _ .written (.inr ⟨r, v, rfl⟩) rfl
  · rw [he] at h
    cases h
    exact .written rfl hc s .busError (.inl rfl) rfl

theorem perform_kind {x : Input} {s t : State} (h : perform x s = .next t) : StepKind x s t := by
  cases hw : x.isHostWrite with
  | true =>
    cases x with
    | hostWrite a w v => exact hostWrite_kind h
    | _ => cases hw
  | false =>
    by_cases hreset : x = .resetInput
    · subst hreset
      cases h
      exact .reset rfl rfl
    · by_cases hrx : ∃ k bytes, x = .evRx k bytes
      · obtain ⟨k, bytes, rfl⟩ := hrx
        cases h
        exact .delivered k bytes rfl rfl
      · exact .kept hw (perform_kept hw (fun k bytes hx => hrx ⟨k, bytes, hx⟩) hreset h) (perform_report hw hreset h)

/-- R175: a register write touches the arguments, the enables and the definitions only. -/
theorem writeReg_frame (s : State) (r : Reg) (v : Word) : s.writeReg r v = { s with
    arg0 := (s.writeReg r v).arg0, arg1 := (s.writeReg r v).arg1, irqEn := (s.writeReg r v).irqEn,
    emcyInh := (s.writeReg r v).emcyInh, resyncEn := (s.writeReg r v).resyncEn, defRx := (s.writeReg r v).defRx,
    defTx := (s.writeReg r v).defTx } := by
  cases r with
  | core r => cases r <;> rfl
  | rxDef i r => rfl
  | txDef j r => rfl
  | window k r => rfl

/-- A property of the next state, from the steps that are not taken and the kinds of those that are. -/
theorem step_kinds {s t : State} {P : State → Prop} (h : step s = .next t)
    (hquiet : ∀ xs r, P { s with inputs := xs, response := r })
    (hkind : ∀ x xs, s.inputs = x :: xs → StepKind x (s.begin xs) t → P t) : P t :=
  step_induction h (hquiet s.inputs s.response) (fun _ xs _ => hquiet xs .notEnabled)
    fun x xs hx _ hp => hkind x xs hx (perform_kind hp)

/-! ### The statements -/

theorem alarmInv_resetWith (p : Params) : AlarmInv (State.resetWith p) := fun _ => ⟨rfl, rfl, rfl⟩

theorem writeReg_alarm {s : State} {r : Reg} {v : Word} (h : AlarmInv s) : AlarmInv (s.writeReg r v) := by
  rw [writeReg_frame]
  exact h

/-- Settles O33: every kind of step keeps it, ECLEAR because it clears the registers with ALARMS. -/
theorem alarmsCoverTheEmcyRegisters : Obligations.AlarmsCoverTheEmcyRegisters := by
  refine ⟨fun s t ha h => step_kinds h (fun _ _ => ha) fun x xs _ hk => ?_, alarmInv_resetWith⟩
  cases hk with
  | kept _ h _ => exact h.alarm ha
  | delivered k bytes _ h => exact h ▸ ha
  | reset _ h => exact h ▸ alarmInv_resetWith s.params
  | written _ _ u r hu h =>
    subst h
    rcases hu with rfl | ⟨reg, v, rfl⟩
    · exact ha
    · exact writeReg_alarm (s := s.begin xs) ha
  | illegal _ _ h => exact h ▸ ha
  | command c i _ _ h =>
    by_cases hfclr : i = .fclr
    · subst hfclr
      cases h
      exact ha
    · exact (exec_apart hfclr h).alarm ha

theorem writeReg_faults (s : State) (r : Reg) (v : Word) : FaultsKept s (s.writeReg r v) := by
  rw [writeReg_frame]
  exact fun _ _ hf hn => ⟨hf, hn⟩

/-- Settles O37: a latch does not report a bit again that is latched, FACK only takes reports away. -/
theorem faultsAreReportedOnce : Obligations.FaultsAreReportedOnce := by
  intro s t b hb h hf hn hx
  refine step_kinds (P := fun t => t.fault.getLsbD b = true ∧ t.faultNew.getLsbD b = false) h (fun _ _ => ⟨hf, hn⟩)
    fun x xs hs hk => ?_
  obtain ⟨hreset, hfclr⟩ := hx x (by rw [hs]; rfl)
  cases hk with
  | kept _ h _ => exact h.faults b hb hf hn
  | delivered k bytes _ h => subst h; exact ⟨hf, hn⟩
  | reset hx _ => exact absurd hx hreset
  | written _ _ u r hu h =>
    subst h
    rcases hu with rfl | ⟨reg, v, rfl⟩
    · exact ⟨hf, hn⟩
    · exact writeReg_faults (s.begin xs) reg v b hb hf hn
  | illegal _ _ h => subst h; exact ⟨hf, hn⟩
  | command c i hc hd h => exact (exec_apart (fun hi => hfclr c hc (hi ▸ hd)) h).faults b hb hf hn

theorem writeReg_report (s : State) (r : Reg) (v : Word) : SameReport s (s.writeReg r v) := by
  rw [writeReg_frame]
  exact ⟨rfl, rfl, rfl⟩

/-- A host write that is no command is the only step that the arguments and the definitions move in, but for a
reset. -/
theorem step_hostState {s t : State} (h : step s = .next t) (hreset : s.inputs.head? ≠ some .resetInput)
    (hx : ∀ x ∈ s.inputs.head?, x.isHostWrite = true → x.commandWord ≠ none) :
    t.arg0 = s.arg0 ∧ t.arg1 = s.arg1 ∧ t.defRx = s.defRx ∧ t.defTx = s.defTx := by
  refine step_kinds (P := fun t => t.arg0 = s.arg0 ∧ t.arg1 = s.arg1 ∧ t.defRx = s.defRx ∧ t.defTx = s.defTx) h
    (fun _ _ => ⟨rfl, rfl, rfl, rfl⟩) fun x xs hs hk => ?_
  rw [hs] at hreset hx
  cases hk with
  | kept _ h _ => exact ⟨h.arg0, h.arg1, h.defRx, h.defTx⟩
  | delivered k bytes _ h => subst h; exact ⟨rfl, rfl, rfl, rfl⟩
  | reset hx _ => exact absurd (congrArg some hx) hreset
  | written hw hc _ _ _ _ => exact absurd hc (hx x rfl hw)
  | illegal _ _ h => subst h; exact ⟨rfl, rfl, rfl, rfl⟩
  | command c i _ _ h =>
    by_cases hfclr : i = .fclr
    · subst hfclr
      cases h
      exact ⟨rfl, rfl, rfl, rfl⟩
    · have hapart := exec_apart hfclr h
      exact ⟨hapart.arg0, hapart.arg1, hapart.defRx, hapart.defTx⟩

/-- Settles O55: only a command reports, and only the host's write moves an argument. -/
theorem onlyCommandsReport : Obligations.OnlyCommandsReport := by
  intro s t h hreset
  constructor
  · intro hx
    refine step_kinds (P := fun t => t.status = s.status ∧ t.res0 = s.res0 ∧ t.res1 = s.res1) h
      (fun _ _ => ⟨rfl, rfl, rfl⟩) fun x xs hs hk => ?_
    rw [hs] at hreset hx
    cases hk with
    | kept _ _ hr => exact ⟨hr.status, hr.res0, hr.res1⟩
    | delivered k bytes _ h => subst h; exact ⟨rfl, rfl, rfl⟩
    | reset hx _ => exact absurd (congrArg some hx) hreset
    | written _ _ u r hu h =>
      subst h
      rcases hu with rfl | ⟨reg, v, rfl⟩
      · exact ⟨rfl, rfl, rfl⟩
      · have hr := writeReg_report (s.begin xs) reg v
        exact ⟨hr.status, hr.res0, hr.res1⟩
    | illegal c hc _ => rw [hx x rfl] at hc; cases hc
    | command c i hc _ _ => rw [hx x rfl] at hc; cases hc
  · intro hx
    obtain ⟨h0, h1, -, -⟩ := step_hostState h hreset hx
    exact ⟨h0, h1⟩

theorem writeReg_params (s : State) (r : Reg) (v : Word) : (s.writeReg r v).params = s.params := by
  rw [writeReg_frame]

theorem step_params {s t : State} (h : step s = .next t) : t.params = s.params := by
  refine step_kinds (P := fun t => t.params = s.params) h (fun _ _ => rfl) fun x xs _ hk => ?_
  cases hk with
  | kept _ h _ => exact h.params
  | delivered k bytes _ h => subst h; rfl
  | reset _ h => subst h; rfl
  | written _ _ u r hu h =>
    subst h
    rcases hu with rfl | ⟨reg, v, rfl⟩
    · rfl
    · exact writeReg_params (s.begin xs) reg v
  | illegal _ _ h => subst h; rfl
  | command c i _ _ h =>
    by_cases hfclr : i = .fclr
    · subst hfclr
      cases h
      rfl
    · exact (exec_apart hfclr h).params

/-- The compiled set is the same, but for the marks and counters of a TPDO. -/
structure SameSet (s t : State) : Prop where
  crx    : t.crx = s.crx
  active : t.active = s.active
  static : ∀ j, (t.txEntry j).map TxEntry.static = (s.txEntry j).map TxEntry.static

theorem writeReg_set (s : State) (r : Reg) (v : Word) : SameSet s (s.writeReg r v) := by
  rw [writeReg_frame]
  exact ⟨rfl, rfl, fun _ => rfl⟩

/-- R211: the compiled set moves with PCREATE, PDESTROY and a reset alone. -/
theorem step_set {s t : State} (h : step s = .next t) (hreset : s.inputs.head? ≠ some .resetInput)
    (hx : ∀ x ∈ s.inputs.head?, ∀ c ∈ x.commandWord, decode c ≠ .ok .pcreate ∧ decode c ≠ .ok .pdestroy) :
    SameSet s t := by
  refine step_kinds (P := SameSet s) h (fun _ _ => ⟨rfl, rfl, fun _ => rfl⟩) fun x xs hs hk => ?_
  rw [hs] at hreset hx
  cases hk with
  | kept _ h _ => exact ⟨h.crx, h.active, h.static⟩
  | delivered k bytes _ h => subst h; exact ⟨rfl, rfl, fun _ => rfl⟩
  | reset hx _ => exact absurd (congrArg some hx) hreset
  | written _ _ u r hu h =>
    subst h
    rcases hu with rfl | ⟨reg, v, rfl⟩
    · exact ⟨rfl, rfl, fun _ => rfl⟩
    · obtain ⟨hcrx, hact, hstatic⟩ := writeReg_set (s.begin xs) reg v
      exact ⟨hcrx, hact, hstatic⟩
  | illegal _ _ h => subst h; exact ⟨rfl, rfl, fun _ => rfl⟩
  | command c i hc hd h =>
    obtain ⟨hcreate, hdestroy⟩ := hx x rfl c hc
    by_cases hfclr : i = .fclr
    · subst hfclr
      cases h
      exact ⟨rfl, rfl, fun _ => rfl⟩
    · have hkept := exec_kept (fun hi => hcreate (hi ▸ hd)) (fun hi => hdestroy (hi ▸ hd)) hfclr h
      exact ⟨hkept.crx, hkept.active, hkept.static⟩

/-- Settles O56. -/
theorem definitionsAndCompiledSetAreApart : Obligations.DefinitionsAndCompiledSetAreApart := by
  intro s t h
  refine ⟨step_params h, fun hreset => ⟨fun hx => ?_, fun hx => ?_⟩⟩
  · obtain ⟨-, -, hrx, htx⟩ := step_hostState h hreset hx
    exact ⟨hrx, htx⟩
  · obtain ⟨hcrx, hact, hstatic⟩ := step_set h hreset hx
    exact ⟨hcrx, hact, hstatic⟩

/-- R154: after all alarms are cleared no EALARM is a duplicate. -/
theorem isDuplicate_of_not_alarms {s : State} (h : s.alarms = false) (code : BitVec 16) : s.isDuplicate code = false := by
  simp [State.isDuplicate, h]

/-- R155: an ECLEAR that ends OK or OK_NOTX leaves the registers 0 and no alarm. -/
theorem eclear_cleared {s t : State} (ha : AlarmInv s) (h : exec .eclear s = .next t)
    (hstatus : t.status = .ok ∨ t.status = .okNoTx) :
    t.emcyErrReg = 0 ∧ t.emcyMfr = 0 ∧ t.emcyCode = 0 ∧ t.alarms = false := by
  rw [exec_eclear] at h
  cases h
  by_cases halarms : s.alarms = false
  · rw [if_pos halarms]
    obtain ⟨herr, hmfr, hcode⟩ := ha halarms
    exact ⟨herr, hmfr, hcode, halarms⟩
  · rw [if_neg halarms] at hstatus ⊢
    unfold State.emcyEnd at hstatus ⊢
    split
    · exact ⟨rfl, rfl, rfl, rfl⟩
    · split
      next hinv hgate => simp [hinv, hgate] at hstatus
      next => exact ⟨rfl, rfl, rfl, rfl⟩

/-- Settles O32: the next alarm is no duplicate, and the gate is open for its frame. -/
theorem clearThenReassert : Obligations.ClearThenReassert := by
  intro s t ha h hstatus
  obtain ⟨herr, hmfr, hcode, halarms⟩ := eclear_cleared ha h hstatus
  refine ⟨herr, hmfr, hcode, fun u code hu _ _ _ hal hv hidle hinh => ?_⟩
  obtain ⟨d, hd, hend⟩ := emcyEnd_of_open hv hidle hinh (u.raiseAlarm code)
  refine ⟨_, exec_ealarm code u, ?_⟩
  rw [isDuplicate_of_not_alarms (hal.trans halarms), if_neg (by simp), hend]
  have hslot : (((u.raiseAlarm code).emcyMarked d).finish .ok).slot u.params.emcyS =
      { u.slot u.params.emcyS with
        id := u.emcyCobId.extractLsb' 0 11, len := 8, data := d, inht := u.emcyInh, txOk := false, txst := .ready } := by
    change (u.modSlot u.params.emcyS _).slot u.params.emcyS = _
    rw [slot_modSlot, if_pos ⟨rfl, by rw [hu.slots]; exact emcyS_lt _⟩]
    rfl
  rw [hslot]
  obtain ⟨hb0, hb1, -⟩ : byteAt d 0 = code.extractLsb' 0 8 ∧ byteAt d 1 = code.extractLsb' 8 8 ∧ _ := by
    have hbytes := List.cons.inj hd
    exact ⟨hbytes.1, (List.cons.inj hbytes.2).1, trivial⟩
  exact ⟨rfl, rfl, hb0, hb1⟩

end Sys2Proof.Machine
end

section
/-! Proofs of the statements about PTASK and the RT step (42_pdo_runtime.md R131 to R146). The idea: a pass is its
decodes and then its evaluations, and each statement about a PDO looks at that PDO through both. -/

namespace Sys2Proof.Machine

/-! ### A pass by its two loops -/

theorem FaultsLatched.congr_right {s t u : State} {c : Nat → Prop} (h : FaultsLatched s t c) (hf : u.fault = t.fault)
    (hn : u.faultNew = t.faultNew) : FaultsLatched s u c := fun b hb => by
  rw [hf, hn]
  exact h b hb

theorem decodeFaults_iff (s : State) (sync : Bool) (b : Nat) :
    s.decodeFaults sync b ↔ ∃ i ∈ List.range s.params.nRpdo, s.rxFaults sync i b := by
  simp only [List.mem_range]
  rfl

/-- What the decodes leave of a TPDO: all but the memory it samples. -/
theorem decodePass_tpdo {sync : Bool} {s u : State}
    (h : forEach (decodeIfNew sync) (List.range s.params.nRpdo) s = .next u) (j : Nat) :
    u.params = s.params ∧ u.txEntry j = s.txEntry j ∧ u.slot (s.params.slotTx j) = s.slot (s.params.slotTx j) ∧
      u.txCnt = s.txCnt := by
  have hd := decodePass_decodeFrame h
  refine ⟨?_, txEntry_congr ?_ j, decodePass_slot h ?_, ?_⟩
  · rw [show u = _ from hd]
  · rw [show u = _ from hd]
  · simp [Params.slotTx]
  · rw [show u = _ from hd]

/-- Evaluations leave an RPDO alone. -/
theorem TxFrame.sameRpdo {u v : State} (h : TxFrame u v) {i : Nat} (hslot : v.slot i = u.slot i) : SameRpdo i u v :=
  ⟨h.params, rxEntry_congr (by rw [show v = _ from h]) i, hslot, by rw [h.rxCnt]⟩

theorem slotTx_ne_of_lt {p : Params} {i : Nat} (hi : i < p.nRpdo) (j : Nat) : i ≠ p.slotTx j := by
  rw [Params.slotTx]
  omega

theorem asyncTxPass_sameRpdo {js : List Nat} {u v : State} (h : forEach asyncTxIf js u = .next v) {i : Nat}
    (hi : i < u.params.nRpdo) : SameRpdo i u v :=
  (asyncTxPass_txFrame h).1.sameRpdo (txPass_slot asyncTxIf_local h fun j _ => slotTx_ne_of_lt hi j)

theorem syncTxPass_sameRpdo {js : List Nat} {u v : State} (h : forEach syncTxIf js u = .next v) {i : Nat}
    (hi : i < u.params.nRpdo) : SameRpdo i u v :=
  (syncTxPass_txFrame h).sameRpdo (txPass_slot syncTxIf_local h fun j _ => slotTx_ne_of_lt hi j)

theorem slotTx_ne_of_emcyS_le {p : Params} {k : Nat} (hk : p.emcyS ≤ k) : ∀ j ∈ List.range p.nTpdo, k ≠ p.slotTx j := by
  intro j hj
  rw [List.mem_range] at hj
  rw [Params.emcyS] at hk
  rw [Params.slotTx]
  omega

theorem not_mem_range_of_emcyS_le {p : Params} {k : Nat} (hk : p.emcyS ≤ k) : k ∉ List.range p.nRpdo := by
  rw [List.mem_range]
  rw [Params.emcyS] at hk
  omega

/-! ### PTASK -/

/-- R146: what PTASK writes, but for STATUS. -/
def TaskFrame (s t : State) : Prop :=
  t = { s with
    slots := t.slots, ctx := t.ctx, rxCnt := t.rxCnt, txCnt := t.txCnt, fault := t.fault, faultNew := t.faultNew,
    mem := t.mem }

theorem TaskFrame.trans {s t u : State} (h : TaskFrame s t) (h' : TaskFrame t u) : TaskFrame s u := by
  unfold TaskFrame at *
  rw [h', h]

theorem DecodeFrame.task {s t : State} (h : DecodeFrame s t) : TaskFrame s t := by
  unfold TaskFrame
  rw [show t = _ from h]

theorem TxFrame.task {s t : State} (h : TxFrame s t) (hc : t.chain = s.chain) : TaskFrame s t := by
  unfold TxFrame at h
  unfold TaskFrame
  rw [hc] at h
  rw [h]

/-- Settles O22: each loop leaves the PDOs of the other kind, the other SYNC bit and the other slots alone. -/
theorem taskPassCompletesAndFrames : Obligations.TaskPassCompletesAndFrames := by
  intro s hadmit
  obtain ⟨t, ht⟩ := (execPtask_stops s).runs fun _ => hadmit
  refine ⟨t, ht, ?_⟩
  rcases exec_ptask_cases ht with ⟨-, v, hv, rfl⟩ | ⟨-, rfl⟩
  · obtain ⟨u, hu, hv⟩ := asyncPass_parts hv
    obtain ⟨htx, hchain⟩ := asyncTxPass_txFrame hv
    have hp := (decodePass_tpdo hu 0).1
    have hframe := (decodePass_decodeFrame hu).task.trans (htx.task hchain)
    refine ⟨?_, fun i hi hall => ?_, fun j _ hall => ?_, fun k hk => ?_, fun a ha => ?_⟩
    · unfold TaskFrame at hframe
      rw [hframe]
      rfl
    · have hquiet : ∀ c, s.rxEntry i = some c → c.sync = false → (s.slot i).new = false := by
        intro c hc hsync
        rw [hc, Option.all_some, hsync] at hall
        cases hall
      have hsame := (decodePass_same List.nodup_range hu hquiet).trans (asyncTxPass_sameRpdo hv (hp ▸ hi))
      exact ⟨hsame.slot, hsame.cnt⟩
    · obtain ⟨-, hentry, hslot, hcnt⟩ := decodePass_tpdo hu j
      have hsame := asyncTxPass_same (j := j) hv (hentry ▸ hall)
      rw [← hp] at hslot ⊢
      exact ⟨hsame.slot.trans hslot, hsame.entry.trans hentry, hsame.cnt.trans (by rw [hcnt])⟩
    · have hslot := decodePass_slot hu (not_mem_range_of_emcyS_le hk)
      exact (txPass_slot asyncTxIf_local hv (by rw [hp]; exact slotTx_ne_of_emcyS_le hk)).trans hslot
    · change v.mem.read a.toNat = _
      rw [htx.mem]
      exact decodePass_mem_of_not_mem List.nodup_range hu ha
  · exact ⟨rfl, fun _ _ _ => ⟨rfl, rfl⟩, fun _ _ _ => ⟨rfl, rfl, rfl⟩, fun _ _ => rfl, fun _ _ => rfl⟩

/-- PTASK on an active set whose accesses are admitted, by its two loops. -/
theorem exec_ptask_parts {s : State} (hadmit : s.passAdmitted false) (ha : s.active = true) :
    ∃ u v, forEach (decodeIfNew false) (List.range s.params.nRpdo) s = .next u ∧
      forEach asyncTxIf (List.range s.params.nTpdo) u = .next v ∧ exec .ptask s = .next (v.finish .ok) := by
  obtain ⟨t, ht⟩ := (execPtask_stops s).runs fun _ => hadmit
  rcases exec_ptask_cases ht with ⟨-, v, hv, rfl⟩ | ⟨hina, -⟩
  · obtain ⟨u, hu, hv⟩ := asyncPass_parts hv
    exact ⟨u, v, hu, hv, ht⟩
  · rw [ha] at hina
    cases hina

/-- Settles O23: the decodes are the pass's, and the evaluations touch nothing of an RPDO, of memory or of the
faults. -/
theorem taskPassDecodes : Obligations.TaskPassDecodes := by
  intro s hs hadmit ha
  obtain ⟨u, v, hu, hv, ht⟩ := exec_ptask_parts hadmit ha
  have htx := (asyncTxPass_txFrame hv).1
  have hp := (decodePass_tpdo hu 0).1
  refine ⟨_, ht, memoryAfter_of_reads fun a => ?_, ?_, fun i hi c hc => ⟨fun hsync hnew => ?_, fun hquiet => ?_⟩⟩
  · change v.mem.read a.toNat = _
    rw [htx.mem, decodePass_reads List.nodup_range hs.mem hu, storedBytes_eq]
  · refine ((decodePass_faults List.nodup_range hu).congr fun b => (decodeFaults_iff s false b).symm).congr_right ?_ ?_
    · exact htx.fault
    · exact htx.faultNew
  · obtain ⟨hslot, hcnt⟩ := decodePass_decoded List.nodup_range (List.mem_range.mpr hi) hu (by rwa [hs.rxCnt]) hc hsync
      hnew
    have hsame := asyncTxPass_sameRpdo hv (hp ▸ hi : i < u.params.nRpdo)
    exact ⟨hsame.slot.trans hslot, hsame.cnt.trans hcnt⟩
  · have hnone : ∀ c', s.rxEntry i = some c' → c'.sync = false → (s.slot i).new = false := by
      intro c' hc' hsync
      cases hc.symm.trans hc'
      exact hquiet.resolve_left (by simp [hsync])
    have hsame := (decodePass_same List.nodup_range hu hnone).trans (asyncTxPass_sameRpdo hv (hp ▸ hi))
    exact ⟨hsame.slot, hsame.cnt⟩

/-! ### When a TPDO is marked -/

theorem txMarks_iff {p : Params} {m : Memory} {sl : Slot} {c : TxEntry} {hit : Bool} :
    txMarks p m sl c hit = true ↔ eligible c sl hit = true ∧ sl.txst = .idle ∧
      ¬ (c.chg = true ∧ c.primed = true ∧ ∀ k < c.totLen, byteAt (c.sample p m) k = byteAt c.prev k) := by
  rw [← samePrefix_iff]
  simp only [txMarks, Bool.and_eq_true, Bool.not_eq_true', ← Bool.not_eq_true, beq_iff_eq, and_assoc]

theorem sync_of_wf {c : TxEntry} (h : c.wf = true) : c.sync = c.cls.isSync := by
  simp only [TxEntry.wf, Bool.and_eq_true, beq_iff_eq] at h
  exact h.1.2

/-- R137, R146: PTASK's triggers. -/
theorem eligible_async {c : TxEntry} (hwf : c.wf = true) (hsync : c.sync = false) (sl : Slot) :
    eligible c sl false = (c.req || sl.rtr || c.cls == .event && c.chg) := by
  rw [sync_of_wf hwf] at hsync
  unfold eligible classTerm
  cases hcls : c.cls with
  | asyncRtr => rfl
  | event => rfl
  | syncAcyc => rw [hcls] at hsync; cases hsync
  | syncCyc => rw [hcls] at hsync; cases hsync
  | syncRtr => rw [hcls] at hsync; cases hsync

/-- Settles O24: the evaluation of a TPDO starts from its own state and the memory the decodes leave. -/
theorem taskPassSends : Obligations.TaskPassSends := by
  intro s hi hadmit ha
  obtain ⟨u, v, hu, hv, ht⟩ := exec_ptask_parts hadmit ha
  refine ⟨_, ht, fun j hj c hc hsync => ?_⟩
  obtain ⟨hp, hentry, hslot, hcnt⟩ := decodePass_tpdo hu j
  have hiu := forEach_Inv (fun _ _ _ => decodeIfNew_inv) hi hu
  have hsent := asyncTxPass_sentAs List.nodup_range (List.mem_range.mpr hj) hiu (hp ▸ hj) hv (hentry.trans hc) hsync
  have hmem : v.mem = u.mem := (asyncTxPass_txFrame hv).1.mem
  have hwf := hi.txWf hc
  refine ⟨c.sample s.params v.mem, c.isSample_sample hwf s.params v.mem, ?_⟩
  obtain ⟨hvslot, hventry, hvcnt⟩ := hsent
  rw [hp, ← hmem, hslot] at hvslot
  rw [hp, ← hmem, hslot] at hventry
  rw [hp, ← hmem, hslot, hcnt] at hvcnt
  rw [← eligible_async hwf hsync]
  by_cases hm : txMarks s.params v.mem (s.slot (s.params.slotTx j)) c false = true
  · rw [if_pos hm] at hvslot hventry hvcnt
    rw [if_pos (txMarks_iff.mp hm)]
    exact ⟨hvslot, hventry, hvcnt⟩
  · rw [if_neg hm] at hvslot hventry hvcnt
    rw [if_neg fun h => hm (txMarks_iff.mpr h)]
    exact ⟨hvslot, hventry, hvcnt⟩

end Sys2Proof.Machine
end

section
/-! Proofs of the statements about the RT step and about who may stop or write memory (20_memory.md R66, R70;
42_pdo_runtime.md R131 to R147; 43_emcy_sync.md R164). The idea: the RT step is PTASK's two loops on the state whose SYNC
is consumed, and then IssueChain, which touches the head of the chain only. -/

namespace Sys2Proof.Machine

/-! ### The SYNC is consumed -/

theorem slotTx_ne_syncS {p : Params} {j : Nat} (hj : j < p.nTpdo) : p.slotTx j ≠ p.syncS := by
  simp only [Params.slotTx, Params.syncS, Params.emcyS]
  omega

theorem slotRx_ne_syncS {p : Params} {i : Nat} (hi : i < p.nRpdo) : i ≠ p.syncS := by
  simp only [Params.syncS, Params.emcyS]
  omega

theorem consumeNew_slot_ne (s : State) {k k' : Nat} (h : k' ≠ k) : (s.consumeNew k).slot k' = s.slot k' :=
  (slot_congr (congrArg State.slots (consumeNew_eq s k)) k').trans (slot_modSlot_ne s _ _ h)

theorem consumeNew_slot {s : State} {k : Nat} (hk : k < s.slots.length) :
    (s.consumeNew k).slot k = { s.slot k with new := false, ovr := false } := by
  rw [slot_congr (congrArg State.slots (consumeNew_eq s k)) k]
  exact (slot_modSlot s k _ k).trans (if_pos ⟨rfl, hk⟩)

theorem consumeNew_txFields (s : State) (k : Nat) :
    (s.consumeNew k).ctx = s.ctx ∧ (s.consumeNew k).txCnt = s.txCnt ∧ (s.consumeNew k).chain = s.chain ∧
      (s.consumeNew k).chainCur = s.chainCur := by
  rw [consumeNew_eq]
  exact ⟨rfl, rfl, rfl, rfl⟩

theorem consumeSync_sameRpdo (s : State) {i : Nat} (hi : i < s.params.nRpdo) :
    SameRpdo i s (s.consumeNew s.params.syncS) :=
  ⟨(consumeNew_frame ..).params, rxEntry_congr (by rw [consumeNew_eq]) i, consumeNew_slot_ne s (slotRx_ne_syncS hi),
    by rw [consumeNew_rxCnt]⟩

theorem consumeSync_sameTpdo (s : State) {j : Nat} (hj : j < s.params.nTpdo) :
    SameTpdo j s (s.consumeNew s.params.syncS) := by
  obtain ⟨hctx, hcnt, -, -⟩ := consumeNew_txFields s s.params.syncS
  exact ⟨(consumeNew_frame ..).params, consumeNew_mem .., txEntry_congr hctx j,
    consumeNew_slot_ne s (slotTx_ne_syncS hj), by rw [hcnt]⟩

/-! ### IssueChain (R140) -/

theorem issueChain_frame' (s : State) : s.issueChain =
    { s with slots := s.issueChain.slots, chain := s.issueChain.chain, chainCur := s.issueChain.chainCur } := by
  unfold State.issueChain
  split <;> rfl

theorem issueChain_of_current {s : State} {j : Nat} (h : s.chainCur = some j) : s.issueChain = s := by
  unfold State.issueChain
  rw [h]

theorem issueChain_of_empty {s : State} (h : s.chain = []) : s.issueChain = s := by
  unfold State.issueChain
  rw [h]
  cases s.chainCur <;> rfl

theorem issueChain_of_head {s : State} {j : Nat} {rest : List Nat} (hcur : s.chainCur = none)
    (hchain : s.chain = j :: rest) : s.issueChain =
      { s.modSlot (s.params.slotTx j) (fun sl => { sl with txst := .ready }) with chain := rest, chainCur := some j } := by
  unfold State.issueChain
  rw [hcur, hchain]

theorem slot_issueChain_of_not_queued {s : State} {k : Nat} (h : ∀ j ∈ s.chain, k ≠ s.params.slotTx j) :
    s.issueChain.slot k = s.slot k := by
  rcases slot_issueChain s k with hk | ⟨⟨j, hj, hk⟩, -⟩
  · exact hk
  · exact absurd hk (h j hj)

theorem slotTx_issueChain {s : State} {j : Nat} (hj : s.params.slotTx j < s.slots.length) :
    s.issueChain.slot (s.params.slotTx j) = { s.slot (s.params.slotTx j) with
      txst := if s.chainCur = none ∧ s.issueChain.chainCur = some j then .ready
        else (s.slot (s.params.slotTx j)).txst } := by
  cases hcur : s.chainCur with
  | some j' => rw [issueChain_of_current hcur, if_neg (by simp)]
  | none =>
    cases hchain : s.chain with
    | nil => rw [issueChain_of_empty hchain, hcur, if_neg (by simp)]
    | cons j' rest =>
      rw [issueChain_of_head hcur hchain]
      change (s.modSlot (s.params.slotTx j') fun sl => { sl with txst := .ready }).slot (s.params.slotTx j) = _
      rw [slot_modSlot]
      by_cases hne : j = j'
      · subst hne
        rw [if_pos ⟨rfl, hj⟩, if_pos ⟨rfl, rfl⟩]
      · rw [if_neg fun h => hne (slotTx_inj.mp h.1), if_neg fun h => hne (Option.some.inj h.2).symm]

/-! ### The RT step by its loops -/

/-- The RT step of `s`: `u` after its decodes, `v` after its evaluations. -/
structure RtRun (s u v : State) : Prop where
  decodes : forEach (decodeIfNew true) (List.range s.params.nRpdo) (s.consumeNew s.params.syncS) = .next u
  sends   : forEach syncTxIf (List.range s.params.nTpdo) u = .next v

theorem rtRun_of_admitted {s : State} (hadmit : s.passAdmitted true) (ha : s.active = true) :
    ∃ u v, RtRun s u v ∧ perform .rtStep s = .next v.issueChain := by
  obtain ⟨t, ht⟩ := (rtStep_stops s).runs fun _ => hadmit
  obtain ⟨u, v, hu, hv, rfl⟩ := rtStep_parts ha ht
  exact ⟨u, v, ⟨hu, hv⟩, ht⟩

section
variable {s u v : State} (h : RtRun s u v)
include h

theorem RtRun.params_mid : u.params = s.params :=
  (forEach_frame (fun _ _ _ hb => decodeIfNew_frame hb) h.decodes).params.trans (consumeNew_frame ..).params

theorem RtRun.params : v.params = s.params := (syncTxPass_txFrame h.sends).params.trans h.params_mid

theorem RtRun.inv_mid (hi : Inv s) : Inv u :=
  forEach_Inv (fun _ _ _ => decodeIfNew_inv) (consumeNew_inv hi _) h.decodes

theorem RtRun.inv (hi : Inv s) : Inv v := forEach_Inv (fun _ _ _ => syncTxIf_inv) (h.inv_mid hi) h.sends

/-- The decodes leave the chain, and TPDO j but for the memory it samples. -/
theorem RtRun.tpdo_mid {j : Nat} (hj : j < s.params.nTpdo) : u.txEntry j = s.txEntry j ∧
    u.slot (s.params.slotTx j) = s.slot (s.params.slotTx j) ∧ u.txCnt = s.txCnt := by
  have hp : (s.consumeNew s.params.syncS).params = s.params := (consumeNew_frame ..).params
  have hd : forEach (decodeIfNew true) (List.range (s.consumeNew s.params.syncS).params.nRpdo)
      (s.consumeNew s.params.syncS) = .next u := by
    rw [hp]
    exact h.decodes
  obtain ⟨-, hentry, hslot, hcnt⟩ := decodePass_tpdo hd j
  rw [hp] at hslot
  have hsame := consumeSync_sameTpdo s hj
  exact ⟨hentry.trans hsame.entry, hslot.trans hsame.slot, hcnt.trans (consumeNew_txFields ..).2.1⟩

theorem RtRun.chain_mid : u.chain = s.chain ∧ u.chainCur = s.chainCur ∧ u.txCnt = s.txCnt := by
  obtain ⟨-, hcnt, hchain, hcur⟩ := consumeNew_txFields s s.params.syncS
  have hd := decodePass_decodeFrame h.decodes
  rw [show u = _ from hd]
  exact ⟨hchain, hcur, hcnt⟩

theorem RtRun.chainCur : v.chainCur = s.chainCur := (syncTxPass_txFrame h.sends).chainCur.trans h.chain_mid.2.1

theorem RtRun.mem : v.mem = u.mem := (syncTxPass_txFrame h.sends).mem

/-- R147 (b): what the RT step leaves in process memory. -/
theorem RtRun.reads (hm : s.mem.wf = true) (a : Word) :
    v.mem.read a.toNat = lastStored a (s.mem.read a.toNat) (s.storedBytes true) := by
  have hmem := consumeNew_mem s s.params.syncS
  have hlocal : (List.range s.params.nRpdo).flatMap ((s.consumeNew s.params.syncS).rxStored true) =
      (List.range s.params.nRpdo).flatMap (s.rxStored true) :=
    List.flatMap_congr fun i hi => (consumeSync_sameRpdo s (List.mem_range.mp hi)).rxStored true
  rw [h.mem, decodePass_reads List.nodup_range (by rw [hmem]; exact hm) h.decodes, hmem, storedBytes_eq, hlocal]

/-- R147 (a): the RT step stores to the elements it decodes only. -/
theorem RtRun.mem_of_not_mem {a : Word} (ha : a ∉ s.storeAddrs true) : v.mem.read a.toNat = s.mem.read a.toNat := by
  have hlocal : (List.range s.params.nRpdo).flatMap ((s.consumeNew s.params.syncS).rxStoreAddrs true) =
      (List.range s.params.nRpdo).flatMap (s.rxStoreAddrs true) :=
    List.flatMap_congr fun i hi => (consumeSync_sameRpdo s (List.mem_range.mp hi)).rxStoreAddrs true
  rw [storeAddrs_eq, ← hlocal] at ha
  rw [h.mem, decodePass_mem_of_not_mem List.nodup_range h.decodes ha, consumeNew_mem]

/-- R131, R135, R181: the fault bits the RT step latches. -/
theorem RtRun.faults : FaultsLatched s v fun b => s.decodeFaults true b ∨ b = 1 ∧ (s.slot s.params.syncS).ovr = true := by
  have htx := syncTxPass_txFrame h.sends
  refine (((faultsLatched_consumeNew s s.params.syncS).trans
    (decodePass_faults List.nodup_range h.decodes)).congr fun b => ?_).congr_right htx.fault htx.faultNew
  rw [decodeFaults_iff, Or.comm]
  refine or_congr_left (exists_congr fun i => and_congr_right fun hi => ?_)
  exact (consumeSync_sameRpdo s (List.mem_range.mp hi)).rxFaults true b

/-- The slots above the TPDOs' are as consuming the SYNC left them. -/
theorem RtRun.slot_of_emcyS_le (hi : Inv s) {k : Nat} (hk : s.params.emcyS ≤ k) :
    v.issueChain.slot k = (s.consumeNew s.params.syncS).slot k := by
  have hne := slotTx_ne_of_emcyS_le hk
  have hissue : v.issueChain.slot k = v.slot k := slot_issueChain_of_not_queued fun j hj => by
    have hlt := ((h.inv hi).chain.queued j hj).1
    rw [h.params] at hlt ⊢
    exact hne j (List.mem_range.mpr hlt)
  rw [hissue, txPass_slot syncTxIf_local h.sends (by rw [h.params_mid]; exact hne),
    decodePass_slot h.decodes (not_mem_range_of_emcyS_le hk)]

/-- The evaluations and IssueChain leave RPDO i alone. -/
theorem RtRun.sameRpdo {i : Nat} (hi : i < s.params.nRpdo) : SameRpdo i u v.issueChain := by
  have hv := syncTxPass_sameRpdo h.sends (h.params_mid ▸ hi)
  have hframe := issueChain_frame' v
  refine hv.trans ⟨by rw [hframe], rxEntry_congr (by rw [hframe]) i, slot_issueChain_of_not_queued fun j _ => ?_,
    by rw [hframe]⟩
  exact slotTx_ne_of_lt (h.params.symm ▸ hi) j

/-- R131, R132: a synchronous RPDO with a new frame. -/
theorem RtRun.decoded (hs : ShapeInv s) {i : Nat} (hi : i < s.params.nRpdo) {c : RxEntry} (hc : s.rxEntry i = some c)
    (hsync : c.sync = true) (hnew : (s.slot i).new = true) :
    v.issueChain.slot i = { s.slot i with new := false, ovr := false } ∧ v.issueChain.rxCnt.getD i 0 =
      if (s.slot i).len = c.totLen then s.rxCnt.getD i 0 + 1 else s.rxCnt.getD i 0 := by
  have hsw := consumeSync_sameRpdo s hi
  have huv := h.sameRpdo hi
  obtain ⟨hslot, hcnt⟩ := decodePass_decoded List.nodup_range (List.mem_range.mpr hi) h.decodes
    (by rwa [consumeNew_rxCnt, hs.rxCnt]) (hsw.entry.trans hc) hsync (by rw [hsw.slot]; exact hnew)
  rw [hsw.slot] at hslot hcnt
  rw [hsw.cnt] at hcnt
  exact ⟨huv.slot.trans hslot, huv.cnt.trans hcnt⟩

/-- R132: any other RPDO. -/
theorem RtRun.quietRpdo {i : Nat} (hi : i < s.params.nRpdo)
    (hquiet : ∀ c, s.rxEntry i = some c → c.sync = true → (s.slot i).new = false) :
    SameRpdo i s v.issueChain := by
  have hsw := consumeSync_sameRpdo s hi
  refine (hsw.trans (decodePass_same List.nodup_range h.decodes fun c hc hsync => ?_)).trans (h.sameRpdo hi)
  rw [hsw.slot]
  exact hquiet c (hsw.entry ▸ hc) hsync

/-- A TPDO that is not synchronous: no evaluation is its own, and it is never queued. -/
theorem RtRun.quietTpdo (hi : Inv s) {j : Nat} (hj : j < s.params.nTpdo)
    (hall : (s.txEntry j).all (fun c => !c.sync) = true) :
    v.issueChain.slot (s.params.slotTx j) = s.slot (s.params.slotTx j) ∧ v.issueChain.txEntry j = s.txEntry j ∧
      v.issueChain.txCnt.getD j 0 = s.txCnt.getD j 0 := by
  obtain ⟨hentry, hslot, hcnt⟩ := h.tpdo_mid hj
  have hsame := syncTxPass_same (j := j) h.sends (hentry ▸ hall)
  have hve := hsame.entry.trans hentry
  have hnot : j ∉ v.chain := fun hmem => by
    obtain ⟨-, -, hany⟩ := (h.inv hi).chain.queued j hmem
    rw [hve] at hany
    cases hc : s.txEntry j with
    | none => rw [hc] at hany; cases hany
    | some c =>
      rw [hc] at hany hall
      simp only [Option.any_some, Option.all_some, Bool.not_eq_true'] at hany hall
      rw [hall] at hany
      cases hany
  have hframe := issueChain_frame' v
  have hissue : v.issueChain.slot (s.params.slotTx j) = v.slot (s.params.slotTx j) := by
    refine slot_issueChain_of_not_queued fun j' hj' heq => hnot ?_
    rw [h.params] at heq
    rwa [slotTx_inj.mp heq]
  have htcnt : v.issueChain.txCnt = v.txCnt := by rw [hframe]
  rw [← h.params_mid] at hslot hissue ⊢
  exact ⟨hissue.trans (hsame.slot.trans hslot), (txEntry_congr (by rw [hframe]) j).trans hve,
    by rw [htcnt, hsame.cnt, hcnt]⟩

end

/-! ### The synchronous TPDOs -/

theorem sub_one_eq_zero_iff {x : BitVec 8} : x - 1 = 0 ↔ x = 1 := by
  constructor
  · intro h
    bv_omega
  · rintro rfl
    rfl

/-- R136: a cyclic TPDO's SYNC counter hits when it counts down to 0. -/
theorem syncTick_hit {c : TxEntry} (hcyc : c.cls = .syncCyc) : (syncTick c).2 = (c.syncCnt == 1) := by
  simp only [syncTick, hcyc]
  by_cases h1 : c.syncCnt = 1
  · rw [if_pos (sub_one_eq_zero_iff.mpr h1), h1]
    rfl
  · rw [if_neg fun h => h1 (sub_one_eq_zero_iff.mp h), beq_eq_false_iff_ne.mpr h1]

/-- R135 to R137: the RT step's triggers. -/
theorem eligible_sync {c : TxEntry} (hwf : c.wf = true) (hsync : c.sync = true) (sl : Slot) :
    eligible c.ticked sl (syncTick c).2 =
      (c.req || sl.rtr || c.cls == .syncCyc && c.syncCnt == 1 || c.cls == .syncAcyc && c.chg) := by
  rw [sync_of_wf hwf] at hsync
  have hterm : classTerm c.ticked (syncTick c).2 =
      (c.cls == .syncCyc && c.syncCnt == 1 || c.cls == .syncAcyc && c.chg) := by
    unfold classTerm
    cases hcls : c.cls with
    | syncAcyc => simp only [TxEntry.ticked, hcls]; rfl
    | syncCyc => simp only [TxEntry.ticked, hcls, syncTick_hit hcls]; exact (Bool.or_false _).symm
    | syncRtr => simp only [TxEntry.ticked, hcls]; rfl
    | asyncRtr => rw [hcls] at hsync; cases hsync
    | event => rw [hcls] at hsync; cases hsync
  rw [eligible, hterm, ← Bool.or_assoc]
  rfl

theorem txMarks_ticked_iff {p : Params} {m : Memory} {sl : Slot} {c : TxEntry} {hit : Bool} :
    txMarks p m sl c.ticked hit = true ↔ eligible c.ticked sl hit = true ∧ sl.txst = .idle ∧
      ¬ (c.chg = true ∧ c.primed = true ∧ ∀ k < c.totLen, byteAt (c.sample p m) k = byteAt c.prev k) :=
  txMarks_iff

/-- R136: the SYNC counter after one SYNC. -/
theorem syncTick_toNat {c : TxEntry} (hwf : c.wf = true) : (syncTick c).1.toNat =
    if c.cls = .syncCyc then (if c.syncCnt.toNat = 1 then c.ncyc.toNat else c.syncCnt.toNat - 1) else 0 := by
  simp only [TxEntry.wf, Bool.and_eq_true] at hwf
  obtain ⟨-, hcnt⟩ := hwf
  by_cases hcyc : c.cls = .syncCyc
  · rw [if_pos (by rw [hcyc]; rfl)] at hcnt
    simp only [Bool.and_eq_true, decide_eq_true_eq] at hcnt
    obtain ⟨⟨-, hlo⟩, -⟩ := hcnt
    rw [if_pos hcyc]
    simp only [syncTick, hcyc]
    by_cases h1 : c.syncCnt = 1
    · simp [h1]
    · have hne : c.syncCnt - 1 ≠ 0 := fun h => h1 (sub_one_eq_zero_iff.mp h)
      have hne' : c.syncCnt.toNat ≠ 1 := fun h => h1 (BitVec.eq_of_toNat_eq h)
      rw [if_neg hne, if_neg hne']
      bv_omega
  · rw [if_neg (by simpa using hcyc)] at hcnt
    simp only [Bool.and_eq_true, beq_iff_eq] at hcnt
    rw [if_neg hcyc]
    have hzero : (syncTick c).1 = c.syncCnt := by
      unfold syncTick
      cases hcls : c.cls with
      | syncCyc => exact absurd hcls hcyc
      | _ => rfl
    rw [hzero, hcnt.2]
    rfl

/-- Settles O25: TPDO j's evaluation is its own, and IssueChain hands it over when it is the chain's head. A marked
frame was Idle, so it is not the current one of before. -/
theorem rtStepSends : Obligations.RtStepSends := by
  intro s hi hadmit ha hnew
  obtain ⟨u, v, hrun, ht⟩ := rtRun_of_admitted hadmit ha
  have hframe := issueChain_frame' v
  have hsync : v.issueChain.slot s.params.syncS = { s.slot s.params.syncS with new := false, ovr := false } := by
    rw [hrun.slot_of_emcyS_le hi (k := s.params.syncS) (Nat.le_add_right ..)]
    exact consumeNew_slot (by rw [hi.shape.slots]; simp [Params.syncS, Params.emcyS, Params.nSlot])
  refine ⟨_, ht, by rw [hsync], by rw [hsync], hrun.faults.congr_right (by rw [hframe]) (by rw [hframe]),
    fun j hj c hc hcs => ?_⟩
  obtain ⟨hentry, hslot, hcnt⟩ := hrun.tpdo_mid hj
  have hp := hrun.params_mid
  have hwf := hi.txWf hc
  have hsent := syncTxPass_sentAs List.nodup_range (List.mem_range.mpr hj) (hrun.inv_mid hi) (hp ▸ hj) hrun.sends
    (hentry.trans hc) hcs
  obtain ⟨hvslot, hventry, hvcnt⟩ := hsent
  rw [hp, ← hrun.mem, hslot] at hvslot hventry
  rw [hp, ← hrun.mem, hslot, hcnt] at hvcnt
  have htmem : v.issueChain.mem = v.mem := by rw [hframe]
  have htentry : v.issueChain.txEntry j = v.txEntry j := txEntry_congr (by rw [hframe]) j
  have htcnt : v.issueChain.txCnt = v.txCnt := by rw [hframe]
  have hlt : v.params.slotTx j < v.slots.length := by
    rw [(hrun.inv hi).shape.slots]
    exact slotTx_lt _ (by rwa [hrun.params])
  have htslot := slotTx_issueChain hlt
  rw [hrun.params, hvslot, hrun.chainCur] at htslot
  refine ⟨c.sample s.params v.mem, (syncTick c).1, ?_, syncTick_toNat hwf, ?_⟩
  · rw [htmem]
    exact c.isSample_sample hwf s.params v.mem
  rw [← eligible_sync hwf hcs, htentry, htcnt]
  by_cases hm : txMarks s.params v.mem (s.slot (s.params.slotTx j)) c.ticked (syncTick c).2 = true
  · have hmarked := txMarks_ticked_iff.mp hm
    rw [if_pos hm] at htslot hventry hvcnt
    rw [if_pos hmarked, htslot]
    refine ⟨?_, hventry, hvcnt⟩
    have hcur : s.chainCur ≠ some j := fun h => by
      obtain ⟨-, howned, -⟩ := hi.chain.current j h
      rw [Slot.transportOwned, hmarked.2.1] at howned
      cases howned
    have hready : v.issueChain.chainCur = some j → s.chainCur = none := fun h => by
      cases hs : s.chainCur with
      | none => rfl
      | some j' =>
        rw [issueChain_of_current (hrun.chainCur.trans hs), hrun.chainCur] at h
        exact absurd h hcur
    by_cases hnow : v.issueChain.chainCur = some j
    · rw [if_pos ⟨hready hnow, hnow⟩, if_pos hnow]
      rfl
    · rw [if_neg fun h => hnow h.2, if_neg hnow]
      rfl
  · rw [if_neg fun h => hm (txMarks_ticked_iff.mpr h)]
    rw [if_neg hm] at htslot hventry hvcnt
    exact ⟨htslot, hventry, hvcnt⟩

end Sys2Proof.Machine
end

section
/-! More proofs about the RT step, and about who stops the block and who writes memory (20_memory.md R66, R70;
42_pdo_runtime.md R135, R140, R144; 43_emcy_sync.md R164). -/

namespace Sys2Proof.Machine

/-! ### The RT step: what it takes, decodes and leaves alone -/

/-- R164 (a): NEW of the SYNC slot rises with a delivered frame only, to a registered slot. -/
theorem syncS_new_of_step {s t : State} (hr : RegInv s) (h : step s = .next t)
    (hold : (s.slot s.params.syncS).new = false) (hnew : (t.slot t.params.syncS).new = true) :
    s.syncInstalled = true ∧ ∃ bytes, s.inputs.head? = some (.evRx s.params.syncS bytes) := by
  have hfalls : ∀ {u : State}, u.params = s.params → (∀ k, (u.slot k).new = true → (s.slot k).new = true) →
      (u.slot u.params.syncS).new ≠ true := by
    intro u hp hu hk
    rw [hp] at hk
    rw [hu _ hk] at hold
    cases hold
  refine step_induction (P := fun t => (t.slot t.params.syncS).new = true → _) h
    (fun hk => absurd hk (hfalls rfl fun _ hk => hk)) (fun _ _ _ hk => absurd hk (hfalls rfl fun _ hk => hk))
    (fun x xs hs he hp hk => ?_) hnew
  cases perform_kind hp with
  | kept _ h _ => exact absurd hk (hfalls h.params h.new)
  | delivered k bytes hx h =>
    subst h hx
    by_cases hkk : k = s.params.syncS
    · subst hkk
      simp only [enabled, Bool.and_eq_true] at he
      exact ⟨hr.syncReg ▸ he.1, bytes, by rw [hs]; rfl⟩
    · have hslot : (evRx k bytes (s.begin xs)).slot s.params.syncS = s.slot s.params.syncS :=
        slot_modSlot_ne (s.begin xs) k _ (Ne.symm hkk)
      change ((evRx k bytes (s.begin xs)).slot s.params.syncS).new = true at hk
      rw [hslot, hold] at hk
      cases hk
  | reset _ h =>
    subst h
    change ((State.resetWith s.params).slot _).new = true at hk
    rw [slot_resetWith] at hk
    cases hk
  | written _ _ u r hu h =>
    subst h
    rcases hu with rfl | ⟨reg, v, rfl⟩
    · exact absurd hk (hfalls rfl fun _ hk => hk)
    · have hslots : ((s.begin xs).writeReg reg v).slots = s.slots := by rw [writeReg_frame]; rfl
      exact absurd hk (hfalls (writeReg_params (s.begin xs) reg v) fun k hk => by
        rwa [slot_answer, slot_congr hslots] at hk)
  | illegal _ _ h =>
    subst h
    exact absurd hk (hfalls rfl fun _ hk => hk)
  | command c i _ _ h =>
    by_cases hfclr : i = .fclr
    · subst hfclr
      cases h
      exact absurd hk (hfalls rfl fun _ hk => hk)
    · exact absurd hk (hfalls (exec_apart hfclr h).params (exec_apart hfclr h).new)

/-- Settles O26: an RT step is enabled by NEW, and its loops do what their rules say. -/
theorem rtStepDecodesAndFrames : Obligations.RtStepDecodesAndFrames := by
  refine ⟨fun s xs hs => ⟨fun hnew => step_of_enabled hs hnew, fun hnew => step_of_not_enabled hs hnew⟩,
    fun s t => syncS_new_of_step, fun s hi hadmit ha _ => ?_⟩
  obtain ⟨u, v, hrun, ht⟩ := rtRun_of_admitted hadmit ha
  have hframe := issueChain_frame' v
  have hmem : v.issueChain.mem = v.mem := by rw [hframe]
  refine ⟨_, ht, rtStep_frame ht, ?_, fun i hlt c hc hsync hnew => hrun.decoded hi.shape hlt hc hsync hnew,
    fun i hlt hquiet => ?_, fun j hlt hall => hrun.quietTpdo hi hlt hall, fun k hk => ?_,
    memoryAfter_of_reads fun a => by rw [hmem, hrun.reads hi.shape.mem],
    hrun.faults.congr_right (by rw [hframe]) (by rw [hframe])⟩
  · rw [hrun.slot_of_emcyS_le hi (k := s.params.syncS) (Nat.le_add_right ..)]
    exact consumeNew_slot (by rw [hi.shape.slots]; simp [Params.syncS, Params.emcyS, Params.nSlot])
  · have hnone : ∀ c, s.rxEntry i = some c → c.sync = true → (s.slot i).new = false := by
      intro c hc hsync
      refine hquiet.resolve_left fun hall => ?_
      rw [hc, Option.all_some, hsync] at hall
      cases hall
    exact ⟨(hrun.quietRpdo hlt hnone).slot, (hrun.quietRpdo hlt hnone).cnt⟩
  · have hle : s.params.emcyS ≤ k ∧ k ≠ s.params.syncS := by
      simp only [Params.scrS, Params.syncS] at hk ⊢
      omega
    rw [hrun.slot_of_emcyS_le hi hle.1, consumeNew_slot_ne s hle.2]

/-! ### The chain -/

/-- What one TPDO's turn in the RT step does to the chain and to its counter. -/
theorem syncTxIf_queues {j : Nat} {s t : State} (h : syncTxIf j s = .next t) :
    (t.chain = s.chain ∧ t.txCnt = s.txCnt) ∨ (t.chain = s.chain ++ [j] ∧ t.txCnt = s.txCnt.modify j (· + 1)) := by
  rcases syncTxIf_cases h with ⟨-, rfl⟩ | ⟨c, -, -, he⟩
  · exact .inl ⟨rfl, rfl⟩
  · have hchain := he.chain
    have hcnt := he.cnt
    split at hchain
    next hm =>
      rw [if_pos hm] at hcnt
      exact .inr ⟨hchain, hcnt⟩
    next hm =>
      rw [if_neg hm] at hcnt
      exact .inl ⟨hchain, hcnt⟩

theorem syncTxPass_cnt_of_not_mem {js : List Nat} {s t : State} (h : forEach syncTxIf js s = .next t) {j : Nat}
    (hj : j ∉ js) : t.txCnt.getD j 0 = s.txCnt.getD j 0 :=
  forEach_inv (P := fun t => t.txCnt.getD j 0 = s.txCnt.getD j 0)
    (fun j' hi _ _ hu hv => (syncTxIf_same hv fun h : j = j' => hj (h ▸ hi)).cnt.trans hu) rfl h

/-- R133, R135: the evaluations append the TPDOs they mark, in the order of the loop. -/
theorem syncTxPass_marks {js : List Nat} (hn : js.Nodup) {s t : State} (hlt : ∀ j ∈ js, j < s.txCnt.length)
    (h : forEach syncTxIf js s = .next t) : ∃ marked : List Nat, marked.Sublist js ∧ t.chain = s.chain ++ marked ∧
      ∀ j ∈ js, j ∈ marked ↔ t.txCnt.getD j 0 ≠ s.txCnt.getD j 0 := by
  induction js generalizing s with
  | nil => cases h; exact ⟨[], .slnil, (List.append_nil _).symm, by simp⟩
  | cons j js ih =>
    obtain ⟨u, hu, ht⟩ := andThen_next h
    obtain ⟨hj, hn⟩ := List.nodup_cons.mp hn
    have hlen : u.txCnt.length = s.txCnt.length := by
      rcases syncTxIf_queues hu with ⟨-, hcnt⟩ | ⟨-, hcnt⟩ <;> simp [hcnt]
    obtain ⟨marked, hsub, hchain, hmarks⟩ := ih hn (fun i hi => hlen ▸ hlt i (.tail _ hi)) ht
    have hlast := syncTxPass_cnt_of_not_mem ht hj
    have hothers : ∀ i ∈ js, i ≠ j ∧ u.txCnt.getD i 0 = s.txCnt.getD i 0 := fun i hi => by
      have hne : i ≠ j := fun h => hj (h ▸ hi)
      exact ⟨hne, (syncTxIf_same hu hne).cnt⟩
    rcases syncTxIf_queues hu with ⟨hc, hcnt⟩ | ⟨hc, hcnt⟩
    · refine ⟨marked, hsub.cons j, by rw [hchain, hc], List.forall_mem_cons.mpr ⟨?_, fun i hi => ?_⟩⟩
      · rw [hlast, hcnt]
        exact ⟨fun hmem => absurd (hsub.subset hmem) hj, fun hne => absurd rfl hne⟩
      · rw [hmarks i hi, (hothers i hi).2]
    · refine ⟨j :: marked, hsub.cons_cons j, by rw [hchain, hc, List.append_assoc]; rfl,
        List.forall_mem_cons.mpr ⟨?_, fun i hi => ?_⟩⟩
      · rw [hlast, hcnt, getD_modify, if_pos ⟨rfl, hlt j (.head _)⟩]
        refine ⟨fun _ => ?_, fun _ => .head _⟩
        generalize s.txCnt.getD j 0 = x
        bv_omega
      · rw [← (hothers i hi).2, ← hmarks i hi, List.mem_cons, or_iff_right (hothers i hi).1]

/-- Settles O27: the evaluations queue the marked TPDOs, and IssueChain takes the head when none is current. -/
theorem rtStepQueuesTheChain : Obligations.RtStepQueuesTheChain := by
  intro s t hi ha ht
  obtain ⟨u, v, hu, hv, rfl⟩ := rtStep_parts ha ht
  have hrun : RtRun s u v := ⟨hu, hv⟩
  obtain ⟨hchain, -, hcnt⟩ := hrun.chain_mid
  have hlen : ∀ j ∈ List.range s.params.nTpdo, j < u.txCnt.length := fun j hj => by
    rwa [(hrun.inv_mid hi).shape.txCnt, hrun.params_mid, ← List.mem_range]
  obtain ⟨marked, hsub, hq, hmarks⟩ := syncTxPass_marks List.nodup_range hlen hv
  have htcnt : v.issueChain.txCnt = v.txCnt := by rw [issueChain_frame' v]
  refine ⟨marked, List.pairwise_lt_range.sublist hsub, fun j hj => ?_, fun j hj => List.mem_range.mp (hsub.subset hj), ?_⟩
  · rw [htcnt, ← hcnt]
    exact hmarks j (List.mem_range.mpr hj)
  · rw [← hrun.chainCur, ← hchain, ← hq]
    cases hcur : v.chainCur with
    | some j => rw [issueChain_of_current hcur]; exact ⟨hcur, rfl⟩
    | none =>
      cases hc : v.chain with
      | nil => rw [issueChain_of_empty hc]; exact ⟨hcur, hc⟩
      | cons j rest =>
        rw [issueChain_of_head hcur hc]
        refine ⟨rfl, rfl, ?_⟩
        have hj := ((hrun.inv hi).chain.queued j (by simp [hc])).1
        change ((v.modSlot (v.params.slotTx j) fun sl => { sl with txst := .ready }).slot (s.params.slotTx j)).txst = .ready
        rw [← hrun.params, slot_modSlot, if_pos ⟨rfl, by rw [(hrun.inv hi).shape.slots]; exact slotTx_lt _ hj⟩]

/-! ### With no active set -/

theorem txEntry_of_inactive {s : State} (hc : ChainInv s) (ha : s.active = false) (j : Nat) : s.txEntry j = none := by
  obtain ⟨-, htx, -, -⟩ := hc.inactive ha
  cases h : s.txEntry j with
  | none => rfl
  | some c => cases htx _ (txEntry_mem h)

/-- Settles O20: no TPDO is compiled, and the RT step ends when the SYNC is consumed. -/
theorem inactiveSetMovesNoData : Obligations.InactiveSetMovesNoData := by
  intro s hc ha
  refine ⟨?_, fun j hj => ?_, fun _ => ⟨s.consumeNew s.params.syncS, ?_, consumeNew_eq .., fun hovr => ?_, fun hovr => ?_⟩⟩
  · change execPtask s = _
    rw [execPtask, if_neg (by simp [ha])]
    rfl
  · change execPtxreq j s = _
    rw [execPtxreq, if_neg (Nat.not_le.mpr hj), txEntry_of_inactive hc ha]
    rfl
  · change rtStep s = _
    rw [rtStep, ha]
    rfl
  · obtain ⟨hf, hn⟩ := consumeNew_fault s s.params.syncS
    rw [hovr] at hf hn
    exact ⟨hf, hn⟩
  · obtain ⟨hf, hn⟩ := consumeNew_fault s s.params.syncS
    rw [hovr, if_pos rfl] at hf hn
    intro i hlt
    rw [hf, hn]
    exact latched_latch s .swOvr i hlt

/-! ### Where the block stops (R70) -/

/-- Every command but PTASK answers a next state. -/
theorem exec_next {i : Instr} (h : i ≠ .ptask) (s : State) : ∃ t, exec i s = .next t := by
  cases i with
  | ptask => exact absurd rfl h
  | _ => exact ⟨_, rfl⟩

theorem hostWrite_next {a : BitVec 16} {w : AccessWidth} {v : Word}
    (h : ∀ c ∈ (Input.hostWrite a w v).commandWord, decode c ≠ .ok .ptask) (s : State) :
    ∃ t, hostWrite a w v s = .next t := by
  rcases hostWrite_cases a w v s with ⟨hc, he⟩ | ⟨-, ⟨r, he⟩ | he⟩
  · rw [he]
    rcases runCommand_cases v (s.answer .written) with ⟨i, hd, hr⟩ | ⟨-, hr⟩
    · rw [hr]
      exact exec_next (fun hi => h v hc (hi ▸ hd)) _
    · exact ⟨_, hr⟩
  · exact ⟨_, he⟩
  · exact ⟨_, he⟩

/-- Every agent's step but the RT step and PTASK answers a next state. -/
theorem perform_next {x : Input} (hrt : x ≠ .rtStep) (hcmd : ∀ c ∈ x.commandWord, decode c ≠ .ok .ptask) (s : State) :
    ∃ t, perform x s = .next t := by
  cases x with
  | rtStep => exact absurd rfl hrt
  | hostWrite a w v => exact hostWrite_next hcmd s
  | _ => exact ⟨_, rfl⟩

/-- A command word is written to CMD by the host. -/
theorem eq_command_of_commandWord {x : Input} {c : Word} (h : x.commandWord = some c) : x = .command c := by
  cases x with
  | hostWrite a w v =>
    cases w with
    | w32 =>
      change (if a = cmdAddr then some v else none) = some c at h
      by_cases ha : a = cmdAddr
      · rw [if_pos ha] at h
        cases h
        rw [ha]
        rfl
      · rw [if_neg ha] at h
        cases h
    | w8 => cases h
    | w16 => cases h
  | _ => cases h

/-- R84: a step that writes a PTASK word runs PTASK. -/
theorem step_of_ptask {s : State} {x : Input} {xs : List Input} {c : Word} (hs : s.inputs = x :: xs)
    (hc : x.commandWord = some c) (hd : decode c = .ok .ptask) :
    step s = execPtask { s with inputs := xs, response := .written } := by
  cases eq_command_of_commandWord hc
  exact (stepRunsTheDecodedCommand s c xs hs).1 _ hd

/-- Settles O57: the two passes stop exactly at a refused access, and no other step stops. -/
theorem onlyARefusedAccessStops : Obligations.OnlyARefusedAccessStops := by
  refine ⟨fun s => ⟨fun h => (execPtask_stops s).stops fun hp => h.2 (hp h.1),
    fun h => (rtStep_stops s).stops fun hp => h.2 (hp h.1)⟩, fun s => ?_⟩
  rcases step_cases s with ⟨hs, hstep⟩ | ⟨x, xs, hs, ⟨he, hstep⟩ | ⟨he, hstep⟩⟩
  · rw [hs]
    exact .inr ⟨⟨s, hstep⟩, fun _ => ⟨by simp, by simp⟩⟩
  · rw [hs]
    refine .inr ⟨⟨_, hstep⟩, fun _ => ⟨fun hx hnew => ?_, fun y hy c hc _ => ?_⟩⟩
    · cases hx
      rw [enabled, hnew] at he
      cases he
    · cases hy
      cases eq_command_of_commandWord hc
      cases he
  · rw [hs]
    by_cases hrt : x = .rtStep
    · subst hrt
      have hstops : StopsUnless (s.active = true → s.passAdmitted true) (step s) := by
        rw [hstep]
        exact rtStep_stops (s.begin xs)
      by_cases hp : s.active = true → s.passAdmitted true
      · refine .inr ⟨hstops.runs hp, fun ha => ⟨fun _ _ => hp ha, fun y hy c hc _ => ?_⟩⟩
        cases hy
        cases hc
      · rw [Classical.not_imp] at hp
        exact .inl ⟨hstops.stops (fun h => hp.2 (h hp.1)), hp.1, .inl ⟨rfl, he, hp.2⟩⟩
    · by_cases hcmd : ∃ c ∈ x.commandWord, decode c = .ok .ptask
      · obtain ⟨c, hc, hd⟩ := hcmd
        have hstops : StopsUnless (s.active = true → s.passAdmitted false) (step s) := by
          rw [step_of_ptask hs hc hd]
          exact execPtask_stops { s with inputs := xs, response := .written }
        by_cases hp : s.active = true → s.passAdmitted false
        · refine .inr ⟨hstops.runs hp, fun ha => ⟨fun hx _ => absurd (Option.some.inj hx) hrt, fun _ _ _ _ _ => hp ha⟩⟩
        · rw [Classical.not_imp] at hp
          exact .inl ⟨hstops.stops (fun h => hp.2 (h hp.1)), hp.1, .inr ⟨x, rfl, c, hc, hd, hp.2⟩⟩
      · have hnone : ∀ c ∈ x.commandWord, decode c ≠ .ok .ptask := fun c hc hd => hcmd ⟨c, hc, hd⟩
        refine .inr ⟨hstep ▸ perform_next hrt hnone _, fun _ => ⟨fun hx _ => absurd (Option.some.inj hx) hrt, ?_⟩⟩
        intro y hy c hc hd
        cases hy
        exact absurd hd (hnone c hc)

/-! ### Who writes process memory (R66) -/

theorem emcyEnd_mem {s u : State} (h : u.mem = s.mem) : (s.emcyEnd u).mem = s.mem := by
  unfold State.emcyEnd
  split
  · exact h
  · split
    · rfl
    · exact h

theorem install_mem (s : State) : s.install.mem = s.mem := by rw [install_eq]; rfl

/-- R66: no command but PTASK stores to process memory. -/
theorem exec_mem {i : Instr} (hne : i ≠ .ptask) {s t : State} (h : exec i s = .next t) : t.mem = s.mem := by
  cases i with
  | nop => cases h; rfl
  | fget slot boff blen => rw [exec_fget] at h; cases h; split <;> rfl
  | fput slot boff blen =>
    rw [exec_fput] at h
    cases h
    split
    · rfl
    · split <;> rfl
  | pcreate =>
    rcases exec_pcreate_cases s with ⟨-, hp⟩ | ⟨-, -, hp⟩ | ⟨-, -, ⟨f, -, hp⟩ | ⟨st, -, hp⟩⟩ <;> rw [hp] at h <;> cases h
    · rfl
    · rfl
    · exact latch_mem { s with cfgErr := f.word } .pdoCfg
    · rfl
  | pdestroy => cases h; split <;> rfl
  | ptxreq tpdo =>
    cases h
    split
    · rfl
    · split <;> rfl
  | ptask => exact absurd rfl hne
  | ealarm code =>
    rw [exec_ealarm] at h
    cases h
    split
    · rfl
    · exact emcyEnd_mem rfl
  | eclear =>
    rw [exec_eclear] at h
    cases h
    split
    · rfl
    · exact emcyEnd_mem rfl
  | eforce =>
    rw [exec_eforce] at h
    cases h
    split
    · rfl
    · exact emcyEnd_mem rfl
  | ecobid =>
    rw [exec_ecobid] at h
    cases h
    split
    · exact latch_mem { s with emcyCobId := cobInvalidate s.arg0 } .emcyCobId
    · rfl
  | scobid =>
    rw [exec_scobid] at h
    cases h
    split
    · exact (install_mem _).trans (latch_mem { s with syncCobId := cobInvalidate s.arg0 } .syncCobId)
    · exact install_mem { s with syncCobId := s.arg0 }
  | svalid => cases h; exact install_mem { s with validIn := s.arg0.extractLsb' 0 3 == 0 }
  | fack => cases h; rfl
  | fclr => cases h; rfl

theorem issueChain_mem (s : State) : s.issueChain.mem = s.mem := by rw [issueChain_frame']

theorem evDone_mem (k : Nat) (ok : Bool) (s : State) : (evDone k ok s).mem = s.mem := by
  rw [advance_eq]
  split
  · exact issueChain_mem _
  · rfl

/-- R66: of the agents' steps only the application's, the RT step and PTASK store to process memory. -/
theorem perform_mem {x : Input} {s t : State} (happ : ∀ a w v, x ≠ .app a w v) (hrt : x ≠ .rtStep)
    (hcmd : ∀ c ∈ x.commandWord, decode c ≠ .ok .ptask) (h : perform x s = .next t) : t.mem = s.mem := by
  cases x with
  | hostRead addr width =>
    cases h
    unfold hostRead
    split <;> rfl
  | hostWrite a w v =>
    cases perform_kind h with
    | kept hw _ _ => cases hw
    | delivered _ _ hx _ => cases hx
    | reset hx _ => cases hx
    | written _ _ u r hu h =>
      subst h
      rcases hu with rfl | ⟨reg, v, rfl⟩
      · rfl
      · change (s.writeReg reg v).mem = s.mem
        rw [writeReg_frame]
    | illegal _ _ h => subst h; rfl
    | command c i hc hd h => exact exec_mem (s := s.answer .written) (fun hi => hcmd c hc (hi ▸ hd)) h
  | rtStep => exact absurd rfl hrt
  | evRx k bytes => cases h; rfl
  | evRtr k => cases h; rfl
  | evTake k => cases h; rfl
  | evDone k ok => cases h; exact evDone_mem k ok s
  | evInh k b => cases h; rfl
  | evBlk k b => cases h; rfl
  | app a w v => exact absurd rfl (happ a w v)
  | resetInput => cases h; rfl

theorem rtStep_mem_of_not_mem {s t : State} (h : rtStep s = .next t) {a : Word} (ha : a ∉ s.storeAddrs true) :
    t.mem.read a.toNat = s.mem.read a.toNat := by
  cases hact : s.active with
  | true =>
    obtain ⟨u, v, hu, hv, rfl⟩ := rtStep_parts hact h
    rw [issueChain_mem]
    exact RtRun.mem_of_not_mem ⟨hu, hv⟩ ha
  | false =>
    rw [rtStep, hact] at h
    cases h
    exact congrArg (·.read a.toNat) (consumeNew_mem ..)

theorem ptask_mem_of_not_mem {s t : State} (h : execPtask s = .next t) {a : Word} (ha : a ∉ s.storeAddrs false) :
    t.mem.read a.toNat = s.mem.read a.toNat := by
  rcases exec_ptask_cases h with ⟨-, v, hv, rfl⟩ | ⟨-, rfl⟩
  · obtain ⟨u, hu, hv⟩ := asyncPass_parts hv
    change v.mem.read a.toNat = _
    rw [(asyncTxPass_txFrame hv).1.mem]
    exact decodePass_mem_of_not_mem List.nodup_range hu ha
  · rfl

/-- Settles O58. -/
theorem memoryWriters : Obligations.MemoryWriters := by
  intro s t h
  refine ⟨fun hx => ?_, fun hx a ha => ?_, fun x hx c hc hd a ha => ?_⟩
  · refine step_induction (P := fun t => t.mem = s.mem) h rfl (fun _ _ _ => rfl) fun x xs hs _ hp => ?_
    obtain ⟨happ, hrt, hcmd⟩ := hx x (by rw [hs]; rfl)
    exact perform_mem (s := s.begin xs) happ hrt hcmd hp
  · refine step_induction (P := fun t => t.mem.read a.toNat = s.mem.read a.toNat) h rfl (fun _ _ _ => rfl)
      fun x xs hs _ hp => ?_
    rw [hs] at hx
    cases hx
    exact rtStep_mem_of_not_mem (s := s.begin xs) hp ha
  · cases hs : s.inputs with
    | nil => rw [hs] at hx; cases hx
    | cons y ys =>
      rw [hs] at hx
      cases hx
      rw [step_of_ptask hs hc hd] at h
      exact ptask_mem_of_not_mem h ha

end Sys2Proof.Machine
end

section
/-! Proofs about the PDO configuration compiler (41_pdo_config.md R102 to R115). The idea: one entry's checks are the
model's words for them; the entry loop, the PDO loop and the duplicate scan each stop at the first thing that fails, and
all of it runs over one list, the PDOs that are not INVALID in compile order. -/

namespace Sys2Proof.Machine

/-! ### One mapping entry (R108 to R112) -/

/-- One turn of the entry loop: the capacity, the entry's own checks, the length. -/
def compileStep (p : Params) (k : PdoKind) (m : Word) (off nelem : Nat) : Except CfgCode Elem :=
  if p.elemCap < nelem + 1 then .error .outOfMemory
  else
    match compileEntry p k m off with
    | .error c => .error c
    | .ok el => if 8 < off + el.w then .error .pdoLengthExceed else .ok el

theorem compileEntries_cons (p : Params) (k : PdoKind) (m : Word) (ms : List Word) (off nelem e : Nat) :
    compileEntries p k (m :: ms) off nelem e =
      match compileStep p k m off nelem with
      | .error c => .error (c, e)
      | .ok el =>
        match compileEntries p k ms (off + el.w) (nelem + 1) (e + 1) with
        | .error x => .error x
        | .ok c => .ok { c with elems := el :: c.elems } := by
  rw [compileEntries, compileStep]
  by_cases hcap : p.elemCap < nelem + 1
  · rw [if_pos hcap, if_pos hcap]
  · rw [if_neg hcap, if_neg hcap]
    cases compileEntry p k m off with
    | error c => rfl
    | ok el =>
      by_cases hlen : 8 < off + el.w
      · simp only [hlen, if_true]
      · simp only [hlen, if_false] <;> rfl

/-- R112: the fields of SEL. -/
theorem selector_fields {w : Nat} (hw : w = 1 ∨ w = 2 ∨ w = 4 ∨ w = 8) (addr : Word) (hooked : Bool) :
    2 ^ ((selector w addr hooked).extractLsb' 0 2).toNat = w ∧
      (selector w addr hooked).getLsbD 2 = decide (addr.toNat % w ≠ 0) ∧
      (selector w addr hooked).getLsbD 3 = hooked := by
  unfold selector
  by_cases h : addr.toNat % w = 0
  · rw [if_neg (not_not.mpr h), decide_eq_false (not_not.mpr h)]
    rcases hw with rfl | rfl | rfl | rfl <;> cases hooked <;> decide
  · rw [if_pos h, decide_eq_true h]
    rcases hw with rfl | rfl | rfl | rfl <;> cases hooked <;> decide

/-- R110: the access checks in the model's words. -/
theorem attributesOk_eq_false_iff {k : PdoKind} {r : OdEntry} {bits : Nat} : attributesOk k r bits = false ↔
    r.map = false ∨ (k = .rx ∧ (r.wr = false ∨ r.lock = true)) ∨ (k = .tx ∧ r.rd = false) ∨
      bits ∉ [8, 16, 32, 64] ∨ bits ≠ 8 * r.size := by
  cases k <;> simp [attributesOk, Bool.and_eq_false_iff, or_assoc, and_assoc, -Bool.and_eq_false_imp]

/-- R111: the hook check in the model's words. -/
theorem hookOk_eq_false_iff {p : Params} {k : PdoKind} {r : OdEntry} :
    hookOk p k r = false ↔ ∃ h ∈ r.hook, p.hookInit h k = false := by
  unfold hookOk
  cases r.hook <;> simp

theorem dummy_follows {p : Params} {m : Word} {off : Nat} {r : OdEntry} (hr : p.lookup (mapIndex m) (mapSub m) = some r)
    (hd : r.dummy = true) (hbits : mapBits m ≠ 0 ∧ mapBits m % 8 = 0 ∧ mapBits m ≤ 64) :
    (dummyElem off (mapBits m / 8)).follows p .rx m off := by
  refine ⟨r, hr, rfl, ?_, ?_⟩
  · change 8 * (mapBits m / 8) = mapBits m
    omega
  · rw [if_pos hd]
    refine ⟨rfl, ?_, ?_, rfl, rfl, rfl, rfl⟩
    · change 1 ≤ mapBits m / 8
      omega
    · change mapBits m / 8 ≤ 8
      omega

theorem data_follows {p : Params} {k : PdoKind} {m : Word} {off : Nat} {r : OdEntry}
    (hr : p.lookup (mapIndex m) (mapSub m) = some r) (hd : r.dummy = false)
    (hattr : attributesOk k r (mapBits m) = true) (hhook : hookOk p k r = true) :
    (dataElem off (mapBits m / 8) r).follows p k m off := by
  rw [← Bool.not_eq_false, attributesOk_eq_false_iff] at hattr
  rw [← Bool.not_eq_false, hookOk_eq_false_iff] at hhook
  simp only [not_or, not_and, Decidable.not_not, Bool.not_eq_false, Bool.not_eq_true] at hattr
  obtain ⟨hmap, hrx, htx, hbits, hsize⟩ := hattr
  have hw : mapBits m / 8 = 1 ∨ mapBits m / 8 = 2 ∨ mapBits m / 8 = 4 ∨ mapBits m / 8 = 8 := by
    simp only [List.mem_cons, List.not_mem_nil, or_false] at hbits
    omega
  obtain ⟨hcode, hunal, hhk⟩ := selector_fields hw r.addr r.hook.isSome
  refine ⟨r, hr, rfl, ?_, ?_⟩
  · change 8 * (mapBits m / 8) = mapBits m
    omega
  · rw [if_neg (by simp [hd])]
    refine ⟨hmap, hrx, htx, hw, ?_, fun h hh => ?_, rfl, rfl, rfl, hcode, hunal, hhk⟩
    · change mapBits m / 8 = r.size
      omega
    · exact Bool.not_eq_false _ ▸ fun hf => hhook ⟨h, hh, hf⟩

/-- R109: the checks of a dummy entry. -/
theorem entryCode_of_dummy {p : Params} {k : PdoKind} {m : Word} {held bytes : Nat} {r : OdEntry}
    (hcap : ¬ p.elemCap < held + 1) (hr : p.lookup (mapIndex m) (mapSub m) = some r) (hd : r.dummy = true) :
    entryCode p k m held bytes =
      if k = .tx ∨ mapBits m = 0 ∨ mapBits m % 8 ≠ 0 ∨ 64 < mapBits m then 7 else if 8 < bytes then 8 else 0 := by
  rw [entryCode, if_neg hcap, hr]
  simp only [hd, true_and, Bool.true_eq_false, false_and, if_false]

/-- R110, R111: the checks of a data entry. -/
theorem entryCode_of_data {p : Params} {k : PdoKind} {m : Word} {held bytes : Nat} {r : OdEntry}
    (hcap : ¬ p.elemCap < held + 1) (hr : p.lookup (mapIndex m) (mapSub m) = some r) (hd : r.dummy = false) :
    entryCode p k m held bytes =
      if attributesOk k r (mapBits m) = false then 7
      else if hookOk p k r = false then 9 else if 8 < bytes then 8 else 0 := by
  rw [entryCode, if_neg hcap, hr]
  simp only [hd, true_and, Bool.false_eq_true, false_and, if_false]
  exact if_congr attributesOk_eq_false_iff.symm rfl (if_congr hookOk_eq_false_iff.symm rfl rfl)

/-- What compiling an entry reports: the code of the check it fails, or an element that follows the entry. -/
def EntryReport (p : Params) (k : PdoKind) (m : Word) (off : Nat) : Except CfgCode Elem → Prop
  | .error c => ∀ held bytes, ¬ p.elemCap < held + 1 → entryCode p k m held bytes = c.code.toNat
  | .ok el => (∀ held bytes, ¬ p.elemCap < held + 1 → entryCode p k m held bytes = if 8 < bytes then 8 else 0) ∧
      el.w = mapBits m / 8 ∧ el.follows p k m off

theorem compileEntry_of_dummy {p : Params} {k : PdoKind} {m : Word} {r : OdEntry}
    (hr : p.lookup (mapIndex m) (mapSub m) = some r) (hd : r.dummy = true) (off : Nat) : compileEntry p k m off =
      if k = .tx ∨ mapBits m = 0 ∨ mapBits m % 8 ≠ 0 ∨ 64 < mapBits m then .error .internalError
      else .ok (dummyElem off (mapBits m / 8)) := by
  rw [compileEntry, hr]
  simp only [hd, if_true]
  cases k with
  | tx => rfl
  | rx =>
    have hbits : (!dummyBitsOk (mapBits m)) = true ↔
        PdoKind.rx = .tx ∨ mapBits m = 0 ∨ mapBits m % 8 ≠ 0 ∨ 64 < mapBits m := by
      simp only [dummyBitsOk, Bool.not_eq_true', Bool.and_eq_false_iff, bne_eq_false_iff_eq, beq_eq_false_iff_ne,
        decide_eq_false_iff_not, Nat.not_le, or_assoc, reduceCtorEq, false_or]
    exact (if_neg (by decide)).trans (if_congr hbits rfl rfl)

theorem compileEntry_of_data {p : Params} {k : PdoKind} {m : Word} {r : OdEntry}
    (hr : p.lookup (mapIndex m) (mapSub m) = some r) (hd : r.dummy = false) (off : Nat) : compileEntry p k m off =
      if attributesOk k r (mapBits m) = false then .error .internalError
      else if hookOk p k r = false then .error .hookProcessingFail
      else .ok (dataElem off (mapBits m / 8) r) := by
  rw [compileEntry, hr]
  simp only [hd, Bool.false_eq_true, if_false, Bool.not_eq_true']

theorem compileEntry_report (p : Params) (k : PdoKind) (m : Word) (off : Nat) :
    EntryReport p k m off (compileEntry p k m off) := by
  cases hr : p.lookup (mapIndex m) (mapSub m) with
  | none =>
    rw [compileEntry, hr]
    intro held bytes hcap
    rw [entryCode, if_neg hcap, hr]
    rfl
  | some r =>
    cases hd : r.dummy with
    | true =>
      rw [compileEntry_of_dummy hr hd]
      by_cases hbad : k = .tx ∨ mapBits m = 0 ∨ mapBits m % 8 ≠ 0 ∨ 64 < mapBits m
      · rw [if_pos hbad]
        exact fun held bytes hcap => (entryCode_of_dummy hcap hr hd).trans (if_pos hbad)
      · rw [if_neg hbad]
        refine ⟨fun held bytes hcap => (entryCode_of_dummy hcap hr hd).trans (if_neg hbad), rfl, ?_⟩
        simp only [not_or, Decidable.not_not, Nat.not_lt] at hbad
        obtain ⟨hk, hbits⟩ := hbad
        cases k with
        | tx => exact absurd rfl hk
        | rx => exact dummy_follows hr hd hbits
    | false =>
      rw [compileEntry_of_data hr hd]
      cases hattr : attributesOk k r (mapBits m) with
      | false =>
        rw [if_pos rfl]
        exact fun held bytes hcap => (entryCode_of_data hcap hr hd).trans (if_pos hattr)
      | true =>
        rw [if_neg (by simp)]
        cases hhook : hookOk p k r with
        | false =>
          rw [if_pos rfl]
          exact fun held bytes hcap =>
            (entryCode_of_data hcap hr hd).trans ((if_neg (by simp [hattr])).trans (if_pos hhook))
        | true =>
          rw [if_neg (by simp)]
          exact ⟨fun held bytes hcap =>
            (entryCode_of_data hcap hr hd).trans ((if_neg (by simp [hattr])).trans (if_neg (by simp [hhook]))), rfl,
            data_follows hr hd hattr hhook⟩

/-- What one turn of the entry loop reports. -/
theorem compileStep_cases (p : Params) (k : PdoKind) (m : Word) (off nelem : Nat) :
    (∃ c, compileStep p k m off nelem = .error c ∧
      entryCode p k m nelem (off + mapBits m / 8) = c.code.toNat) ∨
    ∃ el, compileStep p k m off nelem = .ok el ∧ entryCode p k m nelem (off + mapBits m / 8) = 0 ∧
      el.w = mapBits m / 8 ∧ el.follows p k m off := by
  unfold compileStep
  by_cases hcap : p.elemCap < nelem + 1
  · exact .inl ⟨_, if_pos hcap, if_pos hcap⟩
  rw [if_neg hcap]
  have hreport := compileEntry_report p k m off
  cases hc : compileEntry p k m off with
  | error c =>
    rw [hc] at hreport
    exact .inl ⟨c, rfl, hreport _ _ hcap⟩
  | ok el =>
    rw [hc] at hreport
    obtain ⟨hcode, hw, hfollows⟩ := hreport
    have hcode := hcode nelem (off + mapBits m / 8) hcap
    rw [← hw] at hcode ⊢
    by_cases hlen : 8 < off + el.w
    · exact .inl ⟨_, if_pos hlen, hcode.trans (if_pos hlen)⟩
    · exact .inr ⟨el, if_neg hlen, hcode.trans (if_neg hlen), rfl, hfollows⟩

/-! ### The entry loop (R106) -/

/-- The bytes a list of mapping entries occupies. -/
def mapBytes (ms : List Word) : Nat := (ms.map fun m => mapBits m / 8).sum

/-- The code of entry i of these, when `off` bytes and `nelem` elements come before them. -/
def entryCodeAt (p : Params) (k : PdoKind) (ms : List Word) (off nelem i : Nat) : Nat :=
  entryCode p k (ms.getD i 0) (nelem + i) (off + mapBytes (ms.take (i + 1)))

theorem entryCodeAt_zero (p : Params) (k : PdoKind) (m : Word) (ms : List Word) (off nelem : Nat) :
    entryCodeAt p k (m :: ms) off nelem 0 = entryCode p k m nelem (off + mapBits m / 8) := by
  simp [entryCodeAt, mapBytes]

theorem entryCodeAt_succ (p : Params) (k : PdoKind) (m : Word) (ms : List Word) (off nelem i : Nat) :
    entryCodeAt p k (m :: ms) off nelem (i + 1) = entryCodeAt p k ms (off + mapBits m / 8) (nelem + 1) i := by
  simp only [entryCodeAt, List.getD_cons_succ, List.take_succ_cons, mapBytes, List.map_cons, List.sum_cons]
  congr 1 <;> omega

/-- What the entry loop reports: the first entry that fails and its code, or the elements of all. -/
def EntriesReport (p : Params) (k : PdoKind) (ms : List Word) (off nelem e : Nat) :
    Except (CfgCode × Nat) Compiled → Prop
  | .error (c, n) => ∃ i < ms.length, n = e + i ∧ (∀ i' < i, entryCodeAt p k ms off nelem i' = 0) ∧
      entryCodeAt p k ms off nelem i = c.code.toNat
  | .ok c => (∀ i < ms.length, entryCodeAt p k ms off nelem i = 0) ∧ c.nelem = nelem + ms.length ∧
      c.off = off + mapBytes ms ∧ c.elems.length = ms.length ∧
      ∀ i < ms.length, ∃ el, c.elems[i]? = some el ∧ el.follows p k (ms.getD i 0) (off + mapBytes (ms.take i))

theorem compileEntries_report (p : Params) (k : PdoKind) (ms : List Word) (off nelem e : Nat) :
    EntriesReport p k ms off nelem e (compileEntries p k ms off nelem e) := by
  induction ms generalizing off nelem e with
  | nil => exact ⟨by simp, rfl, rfl, rfl, by simp⟩
  | cons m ms ih =>
    rw [compileEntries_cons]
    rcases compileStep_cases p k m off nelem with ⟨c, hstep, hcode⟩ | ⟨el, hstep, hcode, hw, hfollows⟩
    · rw [hstep]
      exact ⟨0, Nat.succ_pos _, rfl, fun _ h => absurd h (Nat.not_lt_zero _), (entryCodeAt_zero ..).trans hcode⟩
    · rw [hstep]
      have hrest := ih (off + el.w) (nelem + 1) (e + 1)
      have hzero : entryCodeAt p k (m :: ms) off nelem 0 = 0 := (entryCodeAt_zero ..).trans hcode
      dsimp only
      rw [hw] at hrest ⊢
      cases hc : compileEntries p k ms (off + mapBits m / 8) (nelem + 1) (e + 1) with
      | error x =>
        rw [hc] at hrest
        obtain ⟨c, n⟩ := x
        obtain ⟨i, hi, hn, hbefore, hat⟩ := hrest
        refine ⟨i + 1, Nat.succ_lt_succ hi, by omega, fun i' hi' => ?_, (entryCodeAt_succ ..).trans hat⟩
        cases i' with
        | zero => exact hzero
        | succ i' => exact (entryCodeAt_succ ..).trans (hbefore i' (Nat.lt_of_succ_lt_succ hi'))
      | ok c =>
        rw [hc] at hrest
        obtain ⟨hall, hnelem, hoff, hlen, hels⟩ := hrest
        refine ⟨fun i hi => ?_, ?_, ?_, congrArg (· + 1) hlen, fun i hi => ?_⟩
        · cases i with
          | zero => exact hzero
          | succ i => exact (entryCodeAt_succ ..).trans (hall i (Nat.lt_of_succ_lt_succ hi))
        · simp only [List.length_cons]
          omega
        · simp only [mapBytes, List.map_cons, List.sum_cons] at hoff ⊢
          omega
        · cases i with
          | zero => exact ⟨el, rfl, hfollows⟩
          | succ i =>
            obtain ⟨el', hget, hf⟩ := hels i (Nat.lt_of_succ_lt_succ hi)
            refine ⟨el', hget, ?_⟩
            rw [List.getD_cons_succ, List.take_succ_cons, mapBytes, List.map_cons, List.sum_cons, ← Nat.add_assoc]
            exact hf

end Sys2Proof.Machine
end

section
/-! Proofs about what registers read as (10_state.md R27 to R40). The idea: a register word is built from the bottom up,
each field above the ones before, so its number is the sum of the fields at their bits. -/

namespace Sys2Proof.Machine

/-! ### Words built from fields -/

/-- Word `w` is the number `n`, and all of it is below bit `lo`. -/
structure Fits (w : Word) (n lo : Nat) : Prop where
  toNat : w.toNat = n
  lt    : n < 2 ^ lo

theorem fits_bitsAt_zero {k : Nat} (v : BitVec k) (hk : k ≤ 32) : Fits (bitsAt 0 v) v.toNat k := by
  refine ⟨?_, v.isLt⟩
  rw [bitsAt, BitVec.shiftLeft_zero, BitVec.toNat_setWidth,
    Nat.mod_eq_of_lt (v.isLt.trans_le (Nat.pow_le_pow_right (by omega) hk))]

theorem toNat_bitsAt {lo k : Nat} (v : BitVec k) (h : lo + k ≤ 32) : (bitsAt lo v).toNat = 2 ^ lo * v.toNat := by
  have hv : v.toNat < 2 ^ 32 := v.isLt.trans_le (Nat.pow_le_pow_right (by omega) (by omega))
  have hshift : v.toNat <<< lo < 2 ^ 32 := by
    rw [Nat.shiftLeft_eq]
    calc v.toNat * 2 ^ lo < 2 ^ k * 2 ^ lo := Nat.mul_lt_mul_of_pos_right v.isLt (Nat.two_pow_pos lo)
      _ = 2 ^ (lo + k) := by rw [Nat.add_comm, Nat.pow_add]
      _ ≤ 2 ^ 32 := Nat.pow_le_pow_right (by omega) h
  rw [bitsAt, BitVec.toNat_shiftLeft, BitVec.toNat_setWidth, Nat.mod_eq_of_lt hv, Nat.mod_eq_of_lt hshift,
    Nat.shiftLeft_eq, Nat.mul_comm]

/-- A field above all of the word adds its number at its bit. -/
theorem Fits.bitsAt {w : Word} {n lo : Nat} (h : Fits w n lo) {lo' k : Nat} (v : BitVec k) (hlo : lo ≤ lo')
    (hk : lo' + k ≤ 32) : Fits (w ||| bitsAt lo' v) (n + 2 ^ lo' * v.toNat) (lo' + k) := by
  have hn : n < 2 ^ lo' := h.lt.trans_le (Nat.pow_le_pow_right (by omega) hlo)
  refine ⟨?_, ?_⟩
  · rw [BitVec.toNat_or, h.toNat, toNat_bitsAt v hk, Nat.or_comm, Nat.add_comm]
    exact (Nat.two_pow_add_eq_or_of_lt hn v.toNat).symm
  · calc n + 2 ^ lo' * v.toNat < 2 ^ lo' + 2 ^ lo' * v.toNat := Nat.add_lt_add_right hn _
      _ = 2 ^ lo' * (v.toNat + 1) := by ring
      _ ≤ 2 ^ lo' * 2 ^ k := Nat.mul_le_mul_left _ v.isLt
      _ = 2 ^ (lo' + k) := (Nat.pow_add ..).symm

theorem toNat_ofBool (b : Bool) : (BitVec.ofBool b).toNat = b.toNat := by cases b <;> rfl

theorem fits_flagAt_zero (b : Bool) : Fits (flagAt 0 b) b.toNat 1 :=
  toNat_ofBool b ▸ fits_bitsAt_zero (BitVec.ofBool b) (by omega)

theorem Fits.flagAt {w : Word} {n lo : Nat} (h : Fits w n lo) {lo' : Nat} (b : Bool) (hlo : lo ≤ lo') (hk : lo' < 32) :
    Fits (w ||| flagAt lo' b) (n + 2 ^ lo' * b.toNat) (lo' + 1) :=
  toNat_ofBool b ▸ h.bitsAt (BitVec.ofBool b) hlo hk

/-! ### The fields fit their bits -/

theorem Inv.rxTotLen_le {s : State} (hi : Inv s) {i : Nat} {c : RxEntry} (hc : s.rxEntry i = some c) : c.totLen ≤ 8 := by
  have hwf : c.wf = true := hi.compiled.rx _ (rxEntry_mem hc) c rfl
  simp only [RxEntry.wf, Bool.and_eq_true, decide_eq_true_eq] at hwf
  exact hwf.1.1.1.2

theorem Inv.chainCur_lt {s : State} (hi : Inv s) : s.chainCur.getD 0 < 2 ^ 6 := by
  obtain ⟨-, -, -, ht, -⟩ := hi.shape.params
  cases hcur : s.chainCur with
  | none => decide
  | some j =>
    have hj := (hi.chain.current j hcur).1
    change j < 2 ^ 6
    omega

/-- R52: the chain holds each TPDO once. -/
theorem Inv.chain_length_le {s : State} (hi : Inv s) : s.chain.length ≤ 64 := by
  obtain ⟨-, -, -, ht, -⟩ := hi.shape.params
  have hsub : s.chain ⊆ List.range s.params.nTpdo := fun j hj => List.mem_range.mpr (hi.chain.queued j hj).1
  have hle := (hi.chain.nodup.subperm hsub).length_le
  rw [List.length_range] at hle
  omega

theorem toNat_ofNat_of_lt {k n : Nat} (h : n < 2 ^ k) : (BitVec.ofNat k n).toNat = n := by
  rw [BitVec.toNat_ofNat, Nat.mod_eq_of_lt h]

/-! ### The statement -/

theorem status_code_toNat (c : Status) : c.code.toNat = c.number := by cases c <;> rfl

theorem coreValues {s : State} (hi : Inv s) : CoreValues s := by
  obtain ⟨-, hr, -, ht, -⟩ := hi.shape.params
  have hslots : s.params.nSlot = s.params.nRpdo + s.params.nTpdo + 3 := rfl
  have hpdo := (((fits_flagAt_zero s.active).flagAt s.chainCur.isSome (lo' := 1) (by omega) (by omega)).bitsAt
    (BitVec.ofNat 6 (s.chainCur.getD 0)) (lo' := 8) (by omega) (by omega)).bitsAt
    (BitVec.ofNat 7 s.chain.length) (lo' := 16) (by omega) (by omega)
  have hparam := (((fits_bitsAt_zero (BitVec.ofNat 8 s.params.nRpdo) (by omega)).bitsAt
    (BitVec.ofNat 8 s.params.nTpdo) (lo' := 8) (by omega) (by omega)).bitsAt (8#4) (lo' := 16) (by omega) (by omega)).bitsAt
    (BitVec.ofNat 8 s.params.nSlot) (lo' := 20) (by omega) (by omega)
  have hsync := ((fits_flagAt_zero s.syncInstalled).flagAt s.resyncEn (lo' := 1) (by omega) (by omega)).flagAt s.validIn
    (lo' := 2) (by omega) (by omega)
  rw [toNat_ofNat_of_lt hi.chainCur_lt, toNat_ofNat_of_lt (Nat.lt_of_le_of_lt hi.chain_length_le (by decide))] at hpdo
  rw [toNat_ofNat_of_lt (n := s.params.nRpdo) (by omega), toNat_ofNat_of_lt (n := s.params.nTpdo) (by omega),
    toNat_ofNat_of_lt (n := s.params.nSlot) (by omega)] at hparam
  exact {
    id := rfl
    cmd := rfl
    status := (fits_bitsAt_zero s.status.code (by omega)).toNat.trans (status_code_toNat s.status)
    arg0 := rfl
    arg1 := rfl
    res0 := rfl
    res1 := rfl
    fault := (fits_bitsAt_zero s.fault (by omega)).toNat
    faultNew := (fits_bitsAt_zero s.faultNew (by omega)).toNat
    irqEn := (fits_bitsAt_zero s.irqEn (by omega)).toNat
    cfgErr := rfl
    pdoStat := hpdo.toNat
    param := hparam.toNat
    nodeId := (fits_bitsAt_zero s.params.nodeId (by omega)).toNat
    emcyCobId := rfl
    emcyErrReg := (fits_bitsAt_zero s.emcyErrReg (by omega)).toNat
    emcyMfr := rfl
    emcyCode := (fits_bitsAt_zero s.emcyCode (by omega)).toNat
    emcyInh := (fits_bitsAt_zero s.emcyInh (by omega)).toNat
    emcyStat := (fits_flagAt_zero s.alarms).toNat
    syncCobId := rfl
    syncCtrl := hsync.toNat }

theorem mapAt_eq (d : PdoDef) {e : Nat} (h : e < 8) : d.mapAt e = d.map[e] := by
  rw [PdoDef.mapAt, List.getD_eq_getElem?_getD, List.getElem?_eq_getElem (by simpa using h)]
  simp

theorem rxBlockValues {s : State} (hi : Inv s) (i : Nat) : RxBlockValues s i where
  block := {
    comm := rfl
    ttype := (fits_bitsAt_zero (s.rxDef i).ttype (by omega)).toNat
    mapCnt := (fits_bitsAt_zero (s.rxDef i).mapCnt (by omega)).toNat
    map := fun _ h => mapAt_eq (s.rxDef i) h
    cnt := rfl }
  cfg := rfl
  inhibit := rfl
  syncStart := rfl
  absent h := by
    change rxRtStat (s.rxEntry i) = 0
    rw [h]
    rfl
  rtStat c h := by
    have hword := ((fits_flagAt_zero true).flagAt c.sync (lo' := 1) (by omega) (by omega)).bitsAt
      (BitVec.ofNat 4 c.totLen) (lo' := 4) (by omega) (by omega)
    rw [toNat_ofNat_of_lt (Nat.lt_of_le_of_lt (hi.rxTotLen_le h) (by decide))] at hword
    change (rxRtStat (s.rxEntry i)).toNat = _
    rw [h]
    exact hword.toNat

theorem txBlockValues {s : State} (hi : Inv s) (j : Nat) : TxBlockValues s j where
  block := {
    comm := rfl
    ttype := (fits_bitsAt_zero (s.txDef j).base.ttype (by omega)).toNat
    mapCnt := (fits_bitsAt_zero (s.txDef j).base.mapCnt (by omega)).toNat
    map := fun _ h => mapAt_eq (s.txDef j).base h
    cnt := rfl }
  cfg := (fits_flagAt_zero (s.txDef j).chg).toNat
  inhibit := (fits_bitsAt_zero (s.txDef j).inhibit (by omega)).toNat
  syncStart := (fits_bitsAt_zero (s.txDef j).syncStart (by omega)).toNat
  absent h := by
    change txRtStat (s.txEntry j) = 0
    rw [h]
    rfl
  rtStat c h := by
    have hword := (((((fits_flagAt_zero true).flagAt c.sync (lo' := 1) (by omega) (by omega)).bitsAt
      (BitVec.ofNat 4 c.totLen) (lo' := 4) (by omega) (by omega)).bitsAt c.syncCnt (lo' := 8) (by omega)
      (by omega)).flagAt c.req (lo' := 16) (by omega) (by omega)).flagAt c.primed (lo' := 17) (by omega) (by omega)
    rw [toNat_ofNat_of_lt (Nat.lt_of_le_of_lt (TxEntry.wf_of_elems (hi.txWf h)) (by decide))] at hword
    change (txRtStat (s.txEntry j)).toNat = _
    rw [h]
    exact hword.toNat

theorem txst_code_toNat (x : TxState) : x.code.toNat = x.number := by cases x <;> rfl

/-- R40: CTRL's fields at their bits. -/
theorem ctrlWord_toNat {sl : Slot} (hlen : sl.len ≤ 8) : sl.ctrlWord.toNat =
    sl.len + 2 ^ 4 * sl.new.toNat + 2 ^ 5 * sl.ovr.toNat + 2 ^ 6 * sl.rtr.toNat + 2 ^ 7 * sl.txOk.toNat +
      2 ^ 8 * sl.txBlk.toNat + 2 ^ 9 * sl.inh.toNat + 2 ^ 10 * sl.txst.number + 2 ^ 12 * sl.hpRx.toNat +
      2 ^ 13 * sl.vhpRx.toNat + 2 ^ 14 * sl.reg.toNat + 2 ^ 15 * sl.rtrReg.toNat := by
  have hflags := ((((((fits_bitsAt_zero (BitVec.ofNat 4 sl.len) (by omega)).flagAt sl.new (lo' := 4) (by omega)
    (by omega)).flagAt sl.ovr (lo' := 5) (by omega) (by omega)).flagAt sl.rtr (lo' := 6) (by omega) (by omega)).flagAt
    sl.txOk (lo' := 7) (by omega) (by omega)).flagAt sl.txBlk (lo' := 8) (by omega) (by omega)).flagAt sl.inh
    (lo' := 9) (by omega) (by omega)
  have hword := ((((hflags.bitsAt sl.txst.code (lo' := 10) (by omega) (by omega)).flagAt sl.hpRx (lo' := 12) (by omega)
    (by omega)).flagAt sl.vhpRx (lo' := 13) (by omega) (by omega)).flagAt sl.reg (lo' := 14) (by omega) (by omega)).flagAt
    sl.rtrReg (lo' := 15) (by omega) (by omega)
  rw [toNat_ofNat_of_lt (Nat.lt_of_le_of_lt hlen (by decide)), txst_code_toNat] at hword
  exact hword.toNat

theorem extractLsb'_loWord (d : DWord) {b : Nat} (hb : b < 4) : (loWord d).extractLsb' (8 * b) 8 = byteAt d b := by
  apply byte_ext
  intro i hi
  have hlt : 8 * b + i < 32 := by omega
  rw [byteAt_getLsbD, BitVec.getLsbD_extractLsb', loWord, BitVec.getLsbD_extractLsb']
  simp only [hlt, decide_true, Bool.true_and, Nat.zero_add]

theorem extractLsb'_hiWord (d : DWord) {b : Nat} (hb : b < 4) : (hiWord d).extractLsb' (8 * b) 8 = byteAt d (4 + b) := by
  apply byte_ext
  intro i hi
  have hlt : 8 * b + i < 32 := by omega
  have hsum : 32 + (8 * b + i) = 8 * (4 + b) + i := by omega
  rw [byteAt_getLsbD, BitVec.getLsbD_extractLsb', hiWord, BitVec.getLsbD_extractLsb', hsum]
  simp only [hlt, decide_true, Bool.true_and]

theorem windowValues {s : State} (hi : Inv s) {k : Nat} (hk : k < s.params.nSlot) : WindowValues s k where
  id := (fits_bitsAt_zero (s.slot k).id (by omega)).toNat
  ctrl := ctrlWord_toNat (hi.shape.len k hk)
  data0 _ hb := extractLsb'_loWord _ hb
  data1 _ hb := extractLsb'_hiWord _ hb
  inht := (fits_bitsAt_zero (s.slot k).inht (by omega)).toNat
  reserved := rfl

/-- Settles O39. -/
theorem readValuesCarryTheFields : Obligations.ReadValuesCarryTheFields := fun _ hi =>
  ⟨coreValues hi, fun i _ => rxBlockValues hi i, fun j _ => txBlockValues hi j, fun _ hk => windowValues hi hk⟩

end Sys2Proof.Machine
end

section
/-! Proofs about one PDO and about the set of PDOs in the compiler (41_pdo_config.md R102 to R114). -/

namespace Sys2Proof.Machine

/-! ### The checks before the entries (R103 to R107) -/

/-- The number of a check that fails; 0: none does. -/
def codeOf (o : Option CfgCode) : Nat := (o.map fun c => c.code.toNat).getD 0

theorem codeOf_ite {a a' : Prop} [Decidable a] [Decidable a'] {c : CfgCode} {o : Option CfgCode} {n z : Nat}
    (h : a ↔ a') (hn : c.code.toNat = n) (hz : codeOf o = z) :
    codeOf (if a then some c else o) = if a' then n else z := by
  by_cases ha : a
  · rw [if_pos ha, if_pos (h.mp ha)]
    exact hn
  · rw [if_neg ha, if_neg fun ha' => ha (h.mpr ha')]
    exact hz

theorem code_pos (c : CfgCode) : 1 ≤ c.code.toNat ∧ c.code.toNat ≤ 10 := by cases c <;> decide

theorem codeOf_eq_zero_iff {o : Option CfgCode} : codeOf o = 0 ↔ o = none := by
  cases o with
  | none => exact iff_of_true rfl rfl
  | some c => exact iff_of_false (fun h => by have := (code_pos c).1; change c.code.toNat = 0 at h; omega) (by simp)

theorem mapCount_iff (n : BitVec 8) :
    (decide (n.toNat < 1) || decide (8 < n.toNat)) = true ↔ n = 0 ∨ 8 < n.toNat := by
  rw [Bool.or_eq_true, decide_eq_true_eq, decide_eq_true_eq, Nat.lt_one_iff, BitVec.toNat_eq (y := 0)]
  rfl

/-- R103 to R107: CompilePdo's checks before the entries are the model's words for them. -/
theorem codeOf_headError (x : PdoAt) : codeOf (headError x.kind x.base x.syncStart) = x.headCode := by
  obtain ⟨kind, idx, d, ss⟩ := x
  have hlt := d.ttype.isLt
  cases kind with
  | rx =>
    refine codeOf_ite Iff.rfl rfl (codeOf_ite ?_ rfl (codeOf_ite ?_ rfl (codeOf_ite ?_ rfl
      (codeOf_ite (mapCount_iff d.mapCnt) rfl rfl))))
    · simp only [legalType, Bool.not_eq_true', Bool.or_eq_false_iff, decide_eq_false_iff_not, beq_eq_false_iff_ne]
      omega
    · exact iff_of_false (by simp) (by simp)
    · exact iff_of_false (by simp) (by simp)
  | tx =>
    refine codeOf_ite Iff.rfl rfl (codeOf_ite ?_ rfl (codeOf_ite ?_ rfl (codeOf_ite ?_ rfl
      (codeOf_ite (mapCount_iff d.mapCnt) rfl rfl))))
    · simp only [legalType, Bool.not_eq_true', Bool.or_eq_false_iff, decide_eq_false_iff_not]
      omega
    · simp only [cobRtrEn, Bool.and_eq_true, Bool.or_eq_true, beq_iff_eq, Bool.not_eq_true', BitVec.toNat_eq, and_assoc]
      rfl
    · simp only [legalSyncStart, Bool.and_eq_true, beq_iff_eq, Bool.not_eq_true', decide_eq_false_iff_not, Nat.not_le]

/-! ### One PDO (R106) -/

/-- CompilePdo on a definition. -/
def PdoAt.compile (x : PdoAt) (p : Params) (held : Nat) : Except CfgFail Compiled :=
  compilePdo p x.kind x.idx x.base x.syncStart held

/-- The code of entry e, when `held` elements come before the PDO's. -/
def PdoAt.faultAt (x : PdoAt) (p : Params) (held e : Nat) : Nat :=
  entryCode p x.kind (x.base.mapAt e) (held + e) (x.base.bytesBefore (e + 1))

/-- The PDO passes every check of R106 to R111. -/
def PdoAt.passes (x : PdoAt) (p : Params) (held : Nat) : Prop :=
  x.headCode = 0 ∧ ∀ e < x.base.mapCnt.toNat, x.faultAt p held e = 0

/-- What CompilePdo reports: the first check that fails, or a compiled PDO that follows its definition. -/
def PdoReport (x : PdoAt) (p : Params) (held : Nat) : Except CfgFail Compiled → Prop
  | .error f => f.kind = x.kind ∧ f.idx = x.idx ∧
      ((x.headCode = f.code.code.toNat ∧ f.entry = none) ∨
        (x.headCode = 0 ∧ ∃ e < x.base.mapCnt.toNat, f.entry = some e ∧ (∀ e' < e, x.faultAt p held e' = 0) ∧
          x.faultAt p held e = f.code.code.toNat))
  | .ok c => x.passes p held ∧ c.nelem = held + x.base.mapCnt.toNat ∧
      c.off = x.base.bytesBefore x.base.mapCnt.toNat ∧ x.base.elemsFollow p x.kind c.elems

theorem mapCnt_le_of_headCode {x : PdoAt} (h : x.headCode = 0) :
    1 ≤ x.base.mapCnt.toNat ∧ x.base.mapCnt.toNat ≤ 8 := by
  have hnone := codeOf_eq_zero_iff.mp ((codeOf_headError x).trans h)
  unfold headError at hnone
  split_ifs at hnone with _ _ _ _ hmap
  simp only [Bool.or_eq_true, decide_eq_true_eq, not_or] at hmap
  omega

theorem getD_take {l : List Word} {n i : Nat} (h : i < n) : (l.take n).getD i 0 = l.getD i 0 := by
  rw [List.getD_eq_getElem?_getD, List.getD_eq_getElem?_getD, List.getElem?_take_of_lt h]

theorem mapBytes_take_take (d : PdoDef) {n i : Nat} (h : i ≤ n) :
    mapBytes ((d.map.toList.take n).take i) = d.bytesBefore i := by
  rw [List.take_take, Nat.min_eq_left h]
  rfl

theorem entryCodeAt_eq_faultAt (x : PdoAt) (p : Params) (held : Nat) {i : Nat} (h : i < x.base.mapCnt.toNat) :
    entryCodeAt p x.kind (x.base.map.toList.take x.base.mapCnt.toNat) 0 held i = x.faultAt p held i := by
  rw [entryCodeAt, getD_take h, mapBytes_take_take x.base h, Nat.zero_add]
  rfl

theorem compile_report (x : PdoAt) (p : Params) (held : Nat) : PdoReport x p held (x.compile p held) := by
  have hcode := codeOf_headError x
  unfold PdoAt.compile compilePdo
  cases hhead : headError x.kind x.base x.syncStart with
  | some c =>
    rw [hhead] at hcode
    exact ⟨rfl, rfl, .inl ⟨hcode.symm, rfl⟩⟩
  | none =>
    rw [hhead] at hcode
    have hzero : x.headCode = 0 := hcode.symm
    have hlen : (x.base.map.toList.take x.base.mapCnt.toNat).length = x.base.mapCnt.toNat := by
      have := (mapCnt_le_of_headCode hzero).2
      simp only [List.length_take, Vector.length_toList]
      omega
    have hreport := compileEntries_report p x.kind (x.base.map.toList.take x.base.mapCnt.toNat) 0 held 0
    cases hc : compileEntries p x.kind (x.base.map.toList.take x.base.mapCnt.toNat) 0 held 0 with
    | error y =>
      rw [hc] at hreport
      obtain ⟨c, n⟩ := y
      obtain ⟨i, hi, rfl, hbefore, hat⟩ := hreport
      rw [hlen] at hi
      rw [entryCodeAt_eq_faultAt x p held hi] at hat
      refine ⟨rfl, rfl, .inr ⟨hzero, i, hi, congrArg some (Nat.zero_add i), fun e he => ?_, hat⟩⟩
      rw [← entryCodeAt_eq_faultAt x p held (he.trans hi)]
      exact hbefore e he
    | ok c =>
      rw [hc] at hreport
      obtain ⟨hall, hnelem, hoff, hels, hfollows⟩ := hreport
      rw [hlen] at hall hnelem hels hfollows
      refine ⟨⟨hzero, fun e he => ?_⟩, hnelem, hoff.trans (Nat.zero_add _), hels, fun e he => ?_⟩
      · rw [← entryCodeAt_eq_faultAt x p held he]
        exact hall e he
      · obtain ⟨el, hget, hf⟩ := hfollows e he
        rw [getD_take he, mapBytes_take_take x.base he.le, Nat.zero_add] at hf
        exact ⟨el, hget, hf⟩

theorem compile_of_passes {x : PdoAt} {p : Params} {held : Nat} (h : x.passes p held) :
    ∃ c, x.compile p held = .ok c ∧ c.nelem = held + x.base.mapCnt.toNat := by
  have hreport := compile_report x p held
  obtain ⟨hhead, hall⟩ := h
  cases hc : x.compile p held with
  | ok c =>
    rw [hc] at hreport
    exact ⟨c, rfl, hreport.2.1⟩
  | error f =>
    rw [hc] at hreport
    have hpos := (code_pos f.code).1
    obtain ⟨-, -, ⟨hcode, -⟩ | ⟨-, e, he, -, -, hcode⟩⟩ := hreport
    · omega
    · have := hall e he
      omega

theorem passes_of_compile {x : PdoAt} {p : Params} {held : Nat} {c : Compiled} (h : x.compile p held = .ok c) :
    x.passes p held ∧ c.nelem = held + x.base.mapCnt.toNat ∧ c.off = x.base.bytesBefore x.base.mapCnt.toNat ∧
      x.base.elemsFollow p x.kind c.elems := by
  have hreport := compile_report x p held
  rwa [h] at hreport

theorem compile_of_headCode {x : PdoAt} (h : x.headCode ≠ 0) (p : Params) (held : Nat) :
    ∃ f, x.compile p held = .error f ∧ f.kind = x.kind ∧ f.idx = x.idx ∧ f.entry = none ∧
      f.code.code.toNat = x.headCode := by
  have hreport := compile_report x p held
  cases hc : x.compile p held with
  | ok c =>
    rw [hc] at hreport
    exact absurd hreport.1.1 h
  | error f =>
    rw [hc] at hreport
    obtain ⟨hk, hidx, ⟨hcode, hentry⟩ | ⟨hzero, -⟩⟩ := hreport
    · exact ⟨f, rfl, hk, hidx, hentry, hcode.symm⟩
    · exact absurd hzero h

theorem compile_of_entry {x : PdoAt} {p : Params} {held e : Nat} (hhead : x.headCode = 0)
    (he : e < x.base.mapCnt.toNat) (hbefore : ∀ e' < e, x.faultAt p held e' = 0) (hat : x.faultAt p held e ≠ 0) :
    ∃ f, x.compile p held = .error f ∧ f.kind = x.kind ∧ f.idx = x.idx ∧ f.entry = some e ∧
      f.code.code.toNat = x.faultAt p held e := by
  have hreport := compile_report x p held
  cases hc : x.compile p held with
  | ok c =>
    rw [hc] at hreport
    exact absurd (hreport.1.2 e he) hat
  | error f =>
    rw [hc] at hreport
    have hpos := (code_pos f.code).1
    obtain ⟨hk, hidx, ⟨hcode, -⟩ | ⟨-, e', -, hentry, hbefore', hcode⟩⟩ := hreport
    · omega
    · have heq : e' = e := by
        rcases Nat.lt_trichotomy e' e with hlt | heq | hlt
        · have := hbefore e' hlt
          omega
        · exact heq
        · exact absurd (hbefore' e hlt) hat
      subst heq
      exact ⟨f, rfl, hk, hidx, hentry, hcode.symm⟩

/-! ### The PDOs that are not INVALID, one after another (R102) -/

/-- CompilePdo over a list of PDOs, the element count running on. -/
def compileLive (p : Params) : List PdoAt → Nat → Except CfgFail Nat
  | [], n => .ok n
  | x :: xs, n =>
    match x.compile p n with
    | .error f => .error f
    | .ok c => compileLive p xs c.nelem

/-- The mapping entries of a list of PDOs. -/
def heldIn (xs : List PdoAt) : Nat := (xs.map fun x => x.base.mapCnt.toNat).sum

theorem compileLive_append (p : Params) (xs ys : List PdoAt) (n : Nat) : compileLive p (xs ++ ys) n =
    match compileLive p xs n with
    | .error f => .error f
    | .ok m => compileLive p ys m := by
  induction xs generalizing n with
  | nil => rfl
  | cons x xs ih =>
    rw [List.cons_append, compileLive, compileLive]
    cases x.compile p n with
    | error f => rfl
    | ok c => exact ih c.nelem

/-- R102: all compile exactly when each passes with the entries before it held. -/
theorem compileLive_ok_iff (p : Params) (xs : List PdoAt) (n : Nat) :
    (∃ m, compileLive p xs n = .ok m) ↔ ∀ (q : Nat) (x : PdoAt), xs[q]? = some x → x.passes p (n + heldIn (xs.take q)) := by
  induction xs generalizing n with
  | nil => exact iff_of_true ⟨n, rfl⟩ (by simp)
  | cons x xs ih =>
    rw [compileLive]
    have hshift : ∀ (q : Nat) (y : PdoAt), (y.passes p (n + heldIn ((x :: xs).take (q + 1)))) =
        y.passes p (n + x.base.mapCnt.toNat + heldIn (xs.take q)) := fun q y => by
      rw [List.take_succ_cons, heldIn, List.map_cons, List.sum_cons, ← Nat.add_assoc]
      rfl
    constructor
    · intro h
      cases hc : x.compile p n with
      | error f => rw [hc] at h; obtain ⟨m, hm⟩ := h; cases hm
      | ok c =>
        rw [hc] at h
        obtain ⟨hpass, hnelem, -, -⟩ := passes_of_compile hc
        intro q y hy
        cases q with
        | zero => cases hy; exact hpass
        | succ q =>
          rw [hshift, ← hnelem]
          exact (ih c.nelem).mp h q y hy
    · intro h
      obtain ⟨c, hc, hnelem⟩ := compile_of_passes (h 0 x rfl)
      change x.compile p n = .ok c at hc
      change c.nelem = n + x.base.mapCnt.toNat at hnelem
      rw [hc]
      refine (ih c.nelem).mpr fun q y hy => ?_
      rw [hnelem, ← hshift]
      exact h (q + 1) y hy

theorem compileLive_ok {p : Params} {xs : List PdoAt} {n m : Nat} (h : compileLive p xs n = .ok m) :
    m = n + heldIn xs := by
  induction xs generalizing n with
  | nil => cases h; rfl
  | cons x xs ih =>
    rw [compileLive] at h
    cases hc : x.compile p n with
    | error f => rw [hc] at h; cases h
    | ok c =>
      rw [hc] at h
      rw [ih h, (passes_of_compile hc).2.1, heldIn, heldIn, List.map_cons, List.sum_cons, Nat.add_assoc]

/-- R107: the first PDO that fails decides. -/
theorem compileLive_error {p : Params} {xs : List PdoAt} {n q : Nat} {x : PdoAt} {f : CfgFail}
    (hx : xs[q]? = some x) (hbefore : ∀ q' < q, ∀ y, xs[q']? = some y → y.passes p (n + heldIn (xs.take q')))
    (hf : x.compile p (n + heldIn (xs.take q)) = .error f) : compileLive p xs n = .error f := by
  obtain ⟨hlt, hget⟩ := List.getElem?_eq_some_iff.mp hx
  have hsplit : xs = xs.take q ++ x :: xs.drop (q + 1) := by
    rw [← hget, List.getElem_cons_drop, List.take_append_drop]
  obtain ⟨m, hm⟩ : ∃ m, compileLive p (xs.take q) n = .ok m := by
    refine (compileLive_ok_iff p _ n).mpr fun q' y hy => ?_
    have hq' : q' < q := by
      have := (List.getElem?_eq_some_iff.mp hy).1
      rw [List.length_take] at this
      omega
    rw [List.getElem?_take_of_lt hq'] at hy
    rw [List.take_take, Nat.min_eq_left hq'.le]
    exact hbefore q' hq' y hy
  rw [hsplit, compileLive_append, hm]
  change compileLive p (x :: xs.drop (q + 1)) m = .error f
  rw [compileLive, compileLive_ok hm, hf]

end Sys2Proof.Machine
end

section
/-! Proofs of the statements about PCREATE (41_pdo_config.md R101 to R117; 60_exceptions.md R178). The idea: the compiler's
loops over the definitions are one loop over the PDOs that are not INVALID, and the duplicate scan runs over the same
list. -/

namespace Sys2Proof.Machine

/-! ### The PDOs that are not INVALID -/

/-- The RPDOs of these definitions that are not INVALID, the first one with index i. -/
def rxLive : List PdoDef → Nat → List PdoAt
  | [], _ => []
  | d :: ds, i => if cobInvalid d.comm then rxLive ds (i + 1) else ⟨.rx, i, d, 0⟩ :: rxLive ds (i + 1)

/-- The TPDOs of these definitions that are not INVALID, the first one with index j. -/
def txLive : List TxDef → Nat → List PdoAt
  | [], _ => []
  | d :: ds, j =>
    if cobInvalid d.base.comm then txLive ds (j + 1) else ⟨.tx, j, d.base, d.syncStart⟩ :: txLive ds (j + 1)

theorem rxLive_eq (ds : List PdoDef) (i : Nat) : rxLive ds i =
    ((List.range ds.length).map fun k => PdoAt.mk .rx (i + k) (ds.getD k PdoDef.reset) 0).filter
      fun x => !x.base.comm.getLsbD 31 := by
  induction ds generalizing i with
  | nil => rfl
  | cons d ds ih =>
    rw [rxLive, ih, List.length_cons, List.range_succ_eq_map, List.map_cons, List.map_map, List.filter_cons]
    have hrest : ((List.range ds.length).map fun k => PdoAt.mk .rx (i + 1 + k) (ds.getD k PdoDef.reset) 0) =
        (List.range ds.length).map
          ((fun k => PdoAt.mk .rx (i + k) ((d :: ds).getD k PdoDef.reset) 0) ∘ Nat.succ) := by
      refine List.map_congr_left fun k _ => ?_
      rw [Function.comp, List.getD_cons_succ, Nat.add_right_comm]
      rfl
    rw [hrest]
    change (if d.comm.getLsbD 31 = true then _ else _) = if (!d.comm.getLsbD 31) = true then _ else _
    cases d.comm.getLsbD 31 <;> rfl

theorem txLive_eq (ds : List TxDef) (j : Nat) : txLive ds j =
    ((List.range ds.length).map fun k =>
      PdoAt.mk .tx (j + k) (ds.getD k TxDef.reset).base (ds.getD k TxDef.reset).syncStart).filter
      fun x => !x.base.comm.getLsbD 31 := by
  induction ds generalizing j with
  | nil => rfl
  | cons d ds ih =>
    rw [txLive, ih, List.length_cons, List.range_succ_eq_map, List.map_cons, List.map_map, List.filter_cons]
    have hrest : ((List.range ds.length).map fun k =>
          PdoAt.mk .tx (j + 1 + k) (ds.getD k TxDef.reset).base (ds.getD k TxDef.reset).syncStart) =
        (List.range ds.length).map ((fun k => PdoAt.mk .tx (j + k) ((d :: ds).getD k TxDef.reset).base
          ((d :: ds).getD k TxDef.reset).syncStart) ∘ Nat.succ) := by
      refine List.map_congr_left fun k _ => ?_
      rw [Function.comp, List.getD_cons_succ, Nat.add_right_comm]
      rfl
    rw [hrest]
    change (if d.base.comm.getLsbD 31 = true then _ else _) = if (!d.base.comm.getLsbD 31) = true then _ else _
    cases d.base.comm.getLsbD 31 <;> rfl

theorem livePdos_eq {s : State} (hs : ShapeInv s) : s.livePdos = rxLive s.defRx 0 ++ txLive s.defTx 0 := by
  rw [rxLive_eq, txLive_eq, ← List.filter_append, hs.defRx, hs.defTx]
  simp only [Nat.zero_add]
  rfl

theorem idx_lt_of_mem_livePdos {s : State} (hs : ShapeInv s) {x : PdoAt} (hx : x ∈ s.livePdos) : x.idx < 64 := by
  obtain ⟨-, hr, -, ht, -⟩ := hs.params
  have hmem := List.mem_of_mem_filter hx
  rw [List.mem_append, List.mem_map, List.mem_map] at hmem
  rcases hmem with ⟨i, hi, rfl⟩ | ⟨j, hj, rfl⟩
  · exact (List.mem_range.mp hi).trans_le hr
  · exact (List.mem_range.mp hj).trans_le ht

/-! ### The duplicate scan (R113) -/

/-- A PDO as the duplicate scan sees it. -/
def PdoAt.item (x : PdoAt) : ScanItem := ⟨x.kind, x.idx, cobId x.base.comm⟩

/-- What the scan makes of an RPDO's definition. -/
def rxItem (x : PdoDef × Nat) : Option ScanItem :=
  if cobInvalid x.1.comm then none else some ⟨.rx, x.2, cobId x.1.comm⟩

/-- What the scan makes of a TPDO's definition. -/
def txItem (x : TxDef × Nat) : Option ScanItem :=
  if cobInvalid x.1.base.comm then none else some ⟨.tx, x.2, cobId x.1.base.comm⟩

theorem rxItems_eq (ds : List PdoDef) (i : Nat) : (ds.zipIdx i).filterMap rxItem = (rxLive ds i).map PdoAt.item := by
  induction ds generalizing i with
  | nil => rfl
  | cons d ds ih =>
    rw [List.zipIdx_cons, rxLive]
    cases hv : cobInvalid d.comm with
    | true => rw [List.filterMap_cons_none (by simp [rxItem, hv]), if_pos rfl, ih]
    | false =>
      rw [List.filterMap_cons_some (b := ⟨.rx, i, cobId d.comm⟩) (by simp [rxItem, hv]), if_neg Bool.false_ne_true, ih]
      rfl

theorem txItems_eq (ds : List TxDef) (j : Nat) : (ds.zipIdx j).filterMap txItem = (txLive ds j).map PdoAt.item := by
  induction ds generalizing j with
  | nil => rfl
  | cons d ds ih =>
    rw [List.zipIdx_cons, txLive]
    cases hv : cobInvalid d.base.comm with
    | true => rw [List.filterMap_cons_none (by simp [txItem, hv]), if_pos rfl, ih]
    | false =>
      rw [List.filterMap_cons_some (b := ⟨.tx, j, cobId d.base.comm⟩) (by simp [txItem, hv]), if_neg Bool.false_ne_true,
        ih]
      rfl

theorem scanItems_eq (rx : List PdoDef) (tx : List TxDef) :
    scanItems rx tx = (rxLive rx 0 ++ txLive tx 0).map PdoAt.item := by
  rw [List.map_append, ← rxItems_eq, ← txItems_eq]
  rfl

theorem rxIds_eq (ds : List PdoDef) (i : Nat) : ((ds.filter fun d => !cobInvalid d.comm).map fun d => cobId d.comm) =
    (rxLive ds i).map fun x => cobId x.base.comm := by
  induction ds generalizing i with
  | nil => rfl
  | cons d ds ih =>
    rw [rxLive, List.filter_cons]
    cases hv : cobInvalid d.comm with
    | true => exact ih (i + 1)
    | false => exact congrArg _ (ih (i + 1))

theorem txIds_eq (ds : List TxDef) (j : Nat) :
    ((ds.filter fun d => !cobInvalid d.base.comm).map fun d => cobId d.base.comm) =
      (txLive ds j).map fun x => cobId x.base.comm := by
  induction ds generalizing j with
  | nil => rfl
  | cons d ds ih =>
    rw [txLive, List.filter_cons]
    cases hv : cobInvalid d.base.comm with
    | true => exact ih (j + 1)
    | false => exact congrArg _ (ih (j + 1))

theorem liveIds_eq (s : State) :
    s.liveIds = ((rxLive s.defRx 0 ++ txLive s.defTx 0).map PdoAt.item).map (·.id) := by
  rw [List.map_map, List.map_append, State.liveIds, rxIds_eq s.defRx 0, txIds_eq s.defTx 0]
  rfl

/-- R113: the scan finds nothing exactly when no identifier comes twice. -/
theorem firstDuplicate_eq_none_iff {seen : List CobId} (hs : seen.Nodup) {xs : List ScanItem} :
    firstDuplicate seen xs = none ↔ (seen ++ xs.map (·.id)).Nodup := by
  induction xs generalizing seen with
  | nil => simp [firstDuplicate, hs]
  | cons x xs ih =>
    rw [firstDuplicate]
    by_cases hmem : x.id ∈ seen
    · rw [if_pos (List.contains_iff_mem.mpr hmem)]
      refine iff_of_false (by simp) fun hn => ?_
      exact (List.disjoint_of_nodup_append hn) hmem (by simp)
    · rw [if_neg fun h => hmem (List.contains_iff_mem.mp h)]
      have hs' : (seen ++ [x.id]).Nodup := by
        rw [List.nodup_append]
        refine ⟨hs, List.nodup_singleton _, fun a ha b hb => ?_⟩
        rw [List.mem_singleton.mp hb]
        exact fun h => hmem (h ▸ ha)
      rw [ih hs', List.append_assoc]
      rfl

/-- R113: the first PDO whose identifier an earlier one has. -/
theorem firstDuplicate_eq_some {seen : List CobId} {xs : List ScanItem} {q : Nat} {x : ScanItem} (hx : xs[q]? = some x)
    (hn : (seen ++ (xs.take q).map (·.id)).Nodup) (hmem : x.id ∈ seen ++ (xs.take q).map (·.id)) :
    firstDuplicate seen xs = some x := by
  induction xs generalizing seen q with
  | nil => cases hx
  | cons y xs ih =>
    rw [firstDuplicate]
    cases q with
    | zero =>
      cases hx
      rw [List.take_zero, List.map_nil, List.append_nil] at hmem
      rw [if_pos (List.contains_iff_mem.mpr hmem)]
    | succ q =>
      have hshift : seen ++ ((y :: xs).take (q + 1)).map (·.id) = (seen ++ [y.id]) ++ (xs.take q).map (·.id) := by
        rw [List.append_assoc]
        rfl
      rw [hshift] at hn hmem
      have hy : y.id ∉ seen := fun h =>
        (List.disjoint_of_nodup_append (List.Nodup.of_append_left hn)) h (List.mem_singleton_self _)
      rw [if_neg fun h => hy (List.contains_iff_mem.mp h)]
      exact ih hx hn hmem

/-! ### The loops over the definitions (R102) -/

/-- What the RPDO loop stages for a definition with index i. -/
def RxStagedAs (p : Params) (i : Nat) (d : PdoDef) (c : Option RxEntry) : Prop :=
  (cobInvalid d.comm = true ∧ c = none) ∨
    cobInvalid d.comm = false ∧ ∃ held cc, compilePdo p .rx i d 0 held = .ok cc ∧ c = some (stageRx d cc)

/-- What the TPDO loop stages for a definition with index j. -/
def TxStagedAs (p : Params) (j : Nat) (d : TxDef) (c : Option TxEntry) : Prop :=
  (cobInvalid d.base.comm = true ∧ c = none) ∨
    cobInvalid d.base.comm = false ∧
      ∃ held cc, compilePdo p .tx j d.base d.syncStart held = .ok cc ∧ c = some (stageTx d cc)

theorem compileRxs_cases (p : Params) (ds : List PdoDef) (i n : Nat) :
    (∃ f, compileLive p (rxLive ds i) n = .error f ∧ compileRxs p ds i n = .error f) ∨
      ∃ es m, compileLive p (rxLive ds i) n = .ok m ∧ compileRxs p ds i n = .ok (es, m) ∧
        ∀ k d, ds[k]? = some d → RxStagedAs p (i + k) d (es.getD k none) := by
  induction ds generalizing i n with
  | nil => exact .inr ⟨[], n, rfl, rfl, by simp⟩
  | cons d ds ih =>
    have hidx : ∀ k, i + (k + 1) = i + 1 + k := fun k => by omega
    rw [rxLive, compileRxs]
    cases hv : cobInvalid d.comm with
    | true =>
      rw [if_pos rfl, if_pos rfl]
      rcases ih (i + 1) n with ⟨f, hl, hr⟩ | ⟨es, m, hl, hr, hes⟩
      · exact .inl ⟨f, hl, by rw [hr]⟩
      · refine .inr ⟨none :: es, m, hl, by rw [hr], fun k d' hk => ?_⟩
        cases k with
        | zero => cases hk; exact .inl ⟨hv, rfl⟩
        | succ k => rw [hidx]; exact hes k d' hk
    | false =>
      rw [if_neg Bool.false_ne_true, if_neg Bool.false_ne_true, compileLive, PdoAt.compile]
      cases hc : compilePdo p .rx i d 0 n with
      | error f => exact .inl ⟨f, rfl, rfl⟩
      | ok c =>
        rcases ih (i + 1) c.nelem with ⟨f, hl, hr⟩ | ⟨es, m, hl, hr, hes⟩
        · exact .inl ⟨f, hl, by simp only [hr]⟩
        · refine .inr ⟨some (stageRx d c) :: es, m, hl, by simp only [hr], fun k d' hk => ?_⟩
          cases k with
          | zero => cases hk; exact .inr ⟨hv, n, c, hc, rfl⟩
          | succ k => rw [hidx]; exact hes k d' hk

theorem compileTxs_cases (p : Params) (ds : List TxDef) (j n : Nat) :
    (∃ f, compileLive p (txLive ds j) n = .error f ∧ compileTxs p ds j n = .error f) ∨
      ∃ es m, compileLive p (txLive ds j) n = .ok m ∧ compileTxs p ds j n = .ok (es, m) ∧
        ∀ k d, ds[k]? = some d → TxStagedAs p (j + k) d (es.getD k none) := by
  induction ds generalizing j n with
  | nil => exact .inr ⟨[], n, rfl, rfl, by simp⟩
  | cons d ds ih =>
    have hidx : ∀ k, j + (k + 1) = j + 1 + k := fun k => by omega
    rw [txLive, compileTxs]
    cases hv : cobInvalid d.base.comm with
    | true =>
      rw [if_pos rfl, if_pos rfl]
      rcases ih (j + 1) n with ⟨f, hl, hr⟩ | ⟨es, m, hl, hr, hes⟩
      · exact .inl ⟨f, hl, by rw [hr]⟩
      · refine .inr ⟨none :: es, m, hl, by rw [hr], fun k d' hk => ?_⟩
        cases k with
        | zero => cases hk; exact .inl ⟨hv, rfl⟩
        | succ k => rw [hidx]; exact hes k d' hk
    | false =>
      rw [if_neg Bool.false_ne_true, if_neg Bool.false_ne_true, compileLive, PdoAt.compile]
      cases hc : compilePdo p .tx j d.base d.syncStart n with
      | error f => exact .inl ⟨f, rfl, rfl⟩
      | ok c =>
        rcases ih (j + 1) c.nelem with ⟨f, hl, hr⟩ | ⟨es, m, hl, hr, hes⟩
        · exact .inl ⟨f, hl, by simp only [hr]⟩
        · refine .inr ⟨some (stageTx d c) :: es, m, hl, by simp only [hr], fun k d' hk => ?_⟩
          cases k with
          | zero => cases hk; exact .inr ⟨hv, n, c, hc, rfl⟩
          | succ k => rw [hidx]; exact hes k d' hk

/-! ### The whole compilation -/

/-- R102: the PDOs in compile order, then the duplicate scan. -/
theorem compileSet_cases (p : Params) (rx : List PdoDef) (tx : List TxDef) :
    (∃ f, compileLive p (rxLive rx 0 ++ txLive tx 0) 0 = .error f ∧ compileSet p rx tx = .error f) ∨
    (∃ m, compileLive p (rxLive rx 0 ++ txLive tx 0) 0 = .ok m ∧
      ((∃ y, firstDuplicate [] (scanItems rx tx) = some y ∧
          compileSet p rx tx = .error { code := .duplicatedCobId, kind := y.kind, idx := y.idx, entry := none }) ∨
        (firstDuplicate [] (scanItems rx tx) = none ∧ ∃ st, compileSet p rx tx = .ok st ∧
          (∀ k d, rx[k]? = some d → RxStagedAs p k d (st.rx.getD k none)) ∧
          ∀ k d, tx[k]? = some d → TxStagedAs p k d (st.tx.getD k none)))) := by
  rw [compileLive_append, compileSet]
  rcases compileRxs_cases p rx 0 0 with ⟨f, hl, hr⟩ | ⟨srx, n, hl, hr, hrx⟩
  · rw [hl, hr]
    exact .inl ⟨f, rfl, rfl⟩
  · rw [hl, hr]
    simp only [Nat.zero_add] at hrx
    rcases compileTxs_cases p tx 0 n with ⟨f, hl, hr⟩ | ⟨stx, m, hl, hr, htx⟩
    · simp only [hl, hr]
      exact .inl ⟨f, rfl, rfl⟩
    · simp only [hl, hr]
      simp only [Nat.zero_add] at htx
      cases hd : firstDuplicate [] (scanItems rx tx) with
      | some y => exact .inr ⟨m, rfl, .inl ⟨y, rfl, rfl⟩⟩
      | none => exact .inr ⟨m, rfl, .inr ⟨rfl, _, rfl, hrx, htx⟩⟩

end Sys2Proof.Machine
end

section
/-! The statements about PCREATE (41_pdo_config.md R101 to R117; 60_exceptions.md R178), from what the compiler reports. -/

namespace Sys2Proof.Machine

/-! ### The CFGERR word (R178) -/

theorem CfgFail.word_fits (f : CfgFail) (hidx : f.idx < 64) (he : f.entry.getD 0 < 8) : Fits f.word
    (f.code.code.toNat + 2 ^ 4 * (f.kind == .tx).toNat + 2 ^ 8 * f.idx + 2 ^ 16 * f.entry.getD 0 +
      2 ^ 19 * f.entry.isSome.toNat) 20 := by
  have hword := ((((fits_bitsAt_zero f.code.code (by omega)).flagAt (f.kind == .tx) (lo' := 4) (by omega)
    (by omega)).bitsAt (BitVec.ofNat 6 f.idx) (lo' := 8) (by omega) (by omega)).bitsAt
    (BitVec.ofNat 3 (f.entry.getD 0)) (lo' := 16) (by omega) (by omega)).flagAt f.entry.isSome (lo' := 19) (by omega)
    (by omega)
  rwa [toNat_ofNat_of_lt (n := f.idx) hidx, toNat_ofNat_of_lt (n := f.entry.getD 0) he] at hword

theorem Fits.eq_ofNat {w : Word} {n lo : Nat} (h : Fits w n lo) : w = BitVec.ofNat 32 n :=
  BitVec.eq_of_toNat_eq (by rw [BitVec.toNat_ofNat, ← h.toNat, Nat.mod_eq_of_lt w.isLt])

/-- R114: a failure's code is in CFGERR's low bits. -/
theorem CfgFail.word_code (f : CfgFail) : f.word.extractLsb' 0 4 = f.code.code := by
  apply BitVec.eq_of_getLsbD_eq
  intro i hi
  simp only [CfgFail.word, bitsAt, flagAt, BitVec.getLsbD_extractLsb', BitVec.getLsbD_or, BitVec.getLsbD_shiftLeft,
    BitVec.getLsbD_setWidth, hi, Nat.zero_add, Nat.sub_zero]
  have h8 : i < 8 := by omega
  have h16 : i < 16 := by omega
  have h19 : i < 19 := by omega
  have h32 : i < 32 := by omega
  simp [h8, h16, h19, h32, hi]

theorem PdoAt.kindBit_eq (x : PdoAt) : x.kindBit = (x.kind == .tx).toNat := by
  obtain ⟨k, _, _, _⟩ := x
  cases k <;> rfl

/-! ### How PCREATE ends -/

theorem failCreate_frame (s : State) (f : CfgFail) : s.failCreate f = { s with
    status := .cfgFail, cfgErr := f.word, fault := (s.latch .pdoCfg).fault, faultNew := (s.latch .pdoCfg).faultNew } := by
  unfold State.failCreate State.latch
  split <;> rfl

theorem exec_pcreate_of_error {s : State} {f : CfgFail} (ha : s.active = false) (hn : s.noneSending)
    (hf : compileSet s.params s.defRx s.defTx = .error f) : exec .pcreate s = .next (s.failCreate f) := by
  rcases exec_pcreate_cases s with ⟨ha', -⟩ | ⟨-, hn', -⟩ | ⟨-, -, ⟨f', hf', h⟩ | ⟨st, hst, -⟩⟩
  · rw [ha] at ha'; cases ha'
  · exact absurd hn hn'
  · rw [hf] at hf'; cases hf'; exact h
  · rw [hf] at hst; cases hst

/-- PCREATE ends with this failure's word in CFGERR. -/
theorem createFails_of_error {s : State} {f : CfgFail} (ha : s.active = false) (hn : s.noneSending)
    (hf : compileSet s.params s.defRx s.defTx = .error f) (hidx : f.idx < 64) (he : f.entry.getD 0 < 8) :
    CreateFails s (f.code.code.toNat + 2 ^ 4 * (f.kind == .tx).toNat + 2 ^ 8 * f.idx + 2 ^ 16 * f.entry.getD 0 +
      2 ^ 19 * f.entry.isSome.toNat) := by
  refine ⟨_, exec_pcreate_of_error ha hn hf, rfl, ?_⟩
  rw [failCreate_frame]
  exact (f.word_fits hidx he).eq_ofNat

/-- Settles O10. -/
theorem createIsRefused : Obligations.CreateIsRefused := by
  refine fun s => ⟨fun ha => ?_, fun ha ⟨j, hj, hsending⟩ => ?_⟩
  · rcases exec_pcreate_cases s with ⟨-, h⟩ | ⟨ha', -⟩ | ⟨ha', -⟩
    · exact h
    · rw [ha] at ha'; cases ha'
    · rw [ha] at ha'; cases ha'
  · rcases exec_pcreate_cases s with ⟨ha', -⟩ | ⟨-, -, h⟩ | ⟨-, hn, -⟩
    · rw [ha] at ha'; cases ha'
    · exact h
    · exact absurd hsending (hn j hj)

/-! ### A set that compiles -/

theorem defRx_getElem? {s : State} (hs : ShapeInv s) {i : Nat} (hi : i < s.params.nRpdo) :
    s.defRx[i]? = some (s.rxDef i) := by
  have hlt : i < s.defRx.length := hs.defRx.symm ▸ hi
  rw [State.rxDef, List.getD_eq_getElem?_getD, List.getElem?_eq_getElem hlt]
  rfl

theorem defTx_getElem? {s : State} (hs : ShapeInv s) {j : Nat} (hj : j < s.params.nTpdo) :
    s.defTx[j]? = some (s.txDef j) := by
  have hlt : j < s.defTx.length := hs.defTx.symm ▸ hj
  rw [State.txDef, List.getD_eq_getElem?_getD, List.getElem?_eq_getElem hlt]
  rfl

/-- What is staged, index by index. -/
structure StagedAs (s : State) (st : Staged) : Prop where
  rx : ∀ i < s.params.nRpdo, RxStagedAs s.params i (s.rxDef i) (st.rx.getD i none)
  tx : ∀ j < s.params.nTpdo, TxStagedAs s.params j (s.txDef j) (st.tx.getD j none)

theorem stagedAs_of_compiles {s : State} (hs : ShapeInv s) {st : Staged}
    (h : compileSet s.params s.defRx s.defTx = .ok st) : StagedAs s st := by
  rcases compileSet_cases s.params s.defRx s.defTx with ⟨f, -, hf⟩ | ⟨m, -, ⟨y, -, hf⟩ | ⟨-, st', hst, hrx, htx⟩⟩
  · rw [h] at hf; cases hf
  · rw [h] at hf; cases hf
  · rw [h] at hst
    cases hst
    exact ⟨fun i hi => hrx i _ (defRx_getElem? hs hi), fun j hj => htx j _ (defTx_getElem? hs hj)⟩

theorem RxStagedAs.isSome {p : Params} {i : Nat} {d : PdoDef} {c : Option RxEntry} (h : RxStagedAs p i d c) :
    c.isSome = !d.comm.getLsbD 31 := by
  change c.isSome = !cobInvalid d.comm
  rcases h with ⟨hv, rfl⟩ | ⟨hv, _, _, -, rfl⟩ <;> rw [hv] <;> rfl

theorem TxStagedAs.isSome {p : Params} {j : Nat} {d : TxDef} {c : Option TxEntry} (h : TxStagedAs p j d c) :
    c.isSome = !d.base.comm.getLsbD 31 := by
  change c.isSome = !cobInvalid d.base.comm
  rcases h with ⟨hv, rfl⟩ | ⟨hv, _, _, -, rfl⟩ <;> rw [hv] <;> rfl

/-- Settles O11: a set that compiles is committed whole; a failure moves CFGERR and the fault registers alone. -/
theorem createIsAllOrNothing : Obligations.CreateIsAllOrNothing := by
  intro s hs ha hn
  cases hc : compileSet s.params s.defRx s.defTx with
  | ok st =>
    have hstaged := stagedAs_of_compiles hs hc
    exact ⟨_, exec_pcreate_of_compiles ha hn hc, .inl ⟨rfl, rfl, rfl, rfl, rfl, fun i hi => (hstaged.rx i hi).isSome,
      fun j hj => (hstaged.tx j hj).isSome⟩⟩
  | error f =>
    have hframe := failCreate_frame s f
    have hcode : (s.failCreate f).cfgErr.extractLsb' 0 4 = f.code.code := by
      rw [hframe]
      exact f.word_code
    refine ⟨_, exec_pcreate_of_error ha hn hc, .inr ⟨?_, ?_, ?_, ?_⟩⟩
    · rw [hframe]
    · rw [hcode]
      exact (code_pos f.code).1
    · rw [hcode]
      exact (code_pos f.code).2
    · rw [hframe]
      exact latched_latch s .pdoCfg

/-! ### What is compiled follows the definitions -/

/-- A definition that passes the checks before the entries (R103 to R107). -/
theorem headCode_eq_zero {x : PdoAt} (h : x.headCode = 0) : x.base.comm.getLsbD 29 = false ∧
    ¬ (240 < x.base.ttype.toNat ∧ x.base.ttype.toNat < (match x.kind with | .rx => 254 | .tx => 252)) ∧
    ¬ (x.kind = .tx ∧ (x.base.ttype = 252 ∨ x.base.ttype = 253) ∧ x.base.comm.getLsbD 30 = false) ∧
    ¬ (x.kind = .tx ∧ 240 < x.syncStart.toNat) := by
  unfold PdoAt.headCode at h
  split_ifs at h with h1 h2 h3 h4
  exact ⟨Bool.eq_false_iff.mpr h1, h2, h3, h4⟩

/-- R103 to R112: what a staged RPDO has of its definition. -/
theorem rxFollows {p : Params} {i : Nat} {d : PdoDef} {c : RxEntry} (h : RxStagedAs p i d (some c)) :
    d.comm.getLsbD 29 = false ∧ (d.ttype.toNat ≤ 240 ∨ 254 ≤ d.ttype.toNat) ∧ 1 ≤ d.mapCnt.toNat ∧
      d.mapCnt.toNat ≤ 8 ∧ c.sync = decide (d.ttype.toNat ≤ 240) ∧ c.totLen = d.bytesBefore d.mapCnt.toNat ∧
      c.totLen ≤ 8 ∧ d.elemsFollow p .rx c.elems := by
  rcases h with ⟨-, h⟩ | ⟨-, held, cc, hcc, h⟩
  · cases h
  · cases h
    obtain ⟨⟨hhead, -⟩, -, hoff, hels⟩ := passes_of_compile (x := ⟨.rx, i, d, 0⟩) hcc
    obtain ⟨hframe, htype, -, -⟩ := headCode_eq_zero hhead
    obtain ⟨hlo, hhi⟩ := mapCnt_le_of_headCode hhead
    obtain ⟨-, -, -, hlen, -⟩ := compilePdo_ok hcc
    refine ⟨hframe, ?_, hlo, hhi, Bool.or_false _, hoff, hlen, hels⟩
    change ¬ (240 < d.ttype.toNat ∧ d.ttype.toNat < 254) at htype
    omega

theorem isSync_tx (t : BitVec 8) : isSync .tx t = decide (t.toNat ≤ 240 ∨ t.toNat = 252) := by
  rw [isSync, Bool.decide_or]
  exact congrArg _ (beq_eq_decide ..)

theorem ncycOf_toNat (t : BitVec 8) : (ncycOf t).toNat = if t.toNat ≤ 240 then t.toNat else 0 := by
  unfold ncycOf
  split <;> rfl

/-- Settles O13: each entry comes from its own definition, which passed R106's checks. -/
theorem compiledSetFollowsTheDefinitions : Obligations.CompiledSetFollowsTheDefinitions := by
  intro s t hs h hok
  obtain ⟨st, hst, rfl⟩ : ∃ st, compileSet s.params s.defRx s.defTx = .ok st ∧ t = (s.commit st).finish .ok := by
    rcases exec_pcreate_cases s with ⟨-, he⟩ | ⟨-, -, he⟩ | ⟨-, -, ⟨f, -, he⟩ | ⟨st, hst, he⟩⟩ <;> rw [he] at h <;> cases h
    · cases hok
    · cases hok
    · cases hok
    · exact ⟨st, hst, rfl⟩
  have hstaged := stagedAs_of_compiles hs hst
  refine ⟨fun i hi c hc => ?_, fun j hj c hc => ?_⟩
  · have hrx := hstaged.rx i hi
    rw [show st.rx.getD i none = some c from hc] at hrx
    exact rxFollows hrx
  · have htx := hstaged.tx j hj
    rw [show st.tx.getD j none = some c from hc] at htx
    rcases htx with ⟨-, h⟩ | ⟨-, held, cc, hcc, h⟩
    · cases h
    · cases h
      obtain ⟨⟨hhead, -⟩, -, hoff, hels⟩ := passes_of_compile (x := ⟨.tx, j, (s.txDef j).base, (s.txDef j).syncStart⟩) hcc
      obtain ⟨hframe, htype, hrtr, hstart⟩ := headCode_eq_zero hhead
      obtain ⟨hlo, hhi⟩ := mapCnt_le_of_headCode hhead
      obtain ⟨-, -, -, hlen, -⟩ := compilePdo_ok hcc
      refine ⟨hframe, ?_, fun ht => ?_, ?_, hlo, hhi, rfl, isSync_tx _, ncycOf_toNat _, rfl, hoff, hlen, hels⟩
      · change ¬ (240 < (s.txDef j).base.ttype.toNat ∧ (s.txDef j).base.ttype.toNat < 252) at htype
        omega
      · by_contra hno
        exact hrtr ⟨rfl, ht.imp BitVec.eq_of_toNat_eq BitVec.eq_of_toNat_eq, Bool.eq_false_iff.mpr hno⟩
      · exact Nat.le_of_not_lt fun hlt => hstart ⟨rfl, hlt⟩

/-! ### When PCREATE activates, and what it reports -/

theorem passUpTo_iff {s : State} {n : Nat} : s.passUpTo n ↔
    ∀ q < n, ∀ x, s.livePdos[q]? = some x → x.passes s.params (0 + heldIn (s.livePdos.take q)) := by
  simp only [Nat.zero_add]
  rfl

theorem compileLive_ok_iff_passUpTo (s : State) :
    (∃ m, compileLive s.params s.livePdos 0 = .ok m) ↔ s.passUpTo s.livePdos.length := by
  rw [compileLive_ok_iff, passUpTo_iff]
  refine forall_congr' fun q => ⟨fun h _ => h, fun h x hx => ?_⟩
  exact h (List.getElem?_eq_some_iff.mp hx).1 x hx

theorem compiles_iff {s : State} (hs : ShapeInv s) : (∃ st, compileSet s.params s.defRx s.defTx = .ok st) ↔
    s.passUpTo s.livePdos.length ∧ s.liveIds.Nodup := by
  rw [← compileLive_ok_iff_passUpTo, liveIds_eq, ← scanItems_eq]
  have hnodup := firstDuplicate_eq_none_iff (seen := []) List.nodup_nil (xs := scanItems s.defRx s.defTx)
  rw [List.nil_append] at hnodup
  rw [← hnodup, livePdos_eq hs]
  rcases compileSet_cases s.params s.defRx s.defTx with ⟨f, hl, hf⟩ | ⟨m, hl, ⟨y, hd, hf⟩ | ⟨hd, st, hst, -⟩⟩
  · rw [hl, hf]
    exact iff_of_false (fun ⟨_, h⟩ => by cases h) fun ⟨⟨_, h⟩, _⟩ => by cases h
  · rw [hd, hf]
    exact iff_of_false (fun ⟨_, h⟩ => by cases h) fun ⟨_, h⟩ => by cases h
  · exact iff_of_true ⟨st, hst⟩ ⟨⟨m, hl⟩, hd⟩

/-- Settles O59. -/
theorem soundDefinitionsActivate : Obligations.SoundDefinitionsActivate := by
  intro s hs ha hn
  rw [← compiles_iff hs]
  constructor
  · rintro ⟨t, ht, hok, -⟩
    cases hc : compileSet s.params s.defRx s.defTx with
    | ok st => exact ⟨st, rfl⟩
    | error f =>
      rw [exec_pcreate_of_error ha hn hc] at ht
      cases ht
      cases hok
  · rintro ⟨st, hst⟩
    exact ⟨_, exec_pcreate_of_compiles ha hn hst, rfl, rfl⟩

theorem compileSet_of_live_error {s : State} (hs : ShapeInv s) {f : CfgFail}
    (h : compileLive s.params s.livePdos 0 = .error f) : compileSet s.params s.defRx s.defTx = .error f := by
  rw [livePdos_eq hs] at h
  rcases compileSet_cases s.params s.defRx s.defTx with ⟨f', hl, hf⟩ | ⟨m, hl, -⟩
  · rw [h] at hl; cases hl; exact hf
  · rw [h] at hl; cases hl

/-- Settles O15: the first PDO that fails decides, and in it the first check. -/
theorem createReportsTheFirstFailure : Obligations.CreateReportsTheFirstFailure := by
  intro s hs ha hn
  refine ⟨fun q x hx hpass => ?_, fun hall q x hx hnodup hmem => ?_⟩
  · have hidx := idx_lt_of_mem_livePdos hs (List.mem_of_getElem? hx)
    have hfail : ∀ f, x.compile s.params (s.heldBefore q) = .error f →
        compileSet s.params s.defRx s.defTx = .error f := fun f hf =>
      compileSet_of_live_error hs
        (compileLive_error hx (fun q' hq' => passUpTo_iff.mp hpass q' hq') (by rw [Nat.zero_add]; exact hf))
    refine ⟨fun hhead => ?_, fun hhead e he hbefore hat => ?_⟩
    · obtain ⟨f, hf, hk, hi, hentry, hcode⟩ := compile_of_headCode hhead s.params (s.heldBefore q)
      have hc := createFails_of_error ha hn (hfail f hf) (hi ▸ hidx) (by rw [hentry]; decide)
      rw [hk, hi, hentry, hcode, ← x.kindBit_eq] at hc
      exact hc
    · obtain ⟨f, hf, hk, hi, hentry, hcode⟩ := compile_of_entry hhead he hbefore hat
      have he8 : e < 8 := he.trans_le (mapCnt_le_of_headCode hhead).2
      have hc := createFails_of_error ha hn (hfail f hf) (hi ▸ hidx) (by rw [hentry]; exact he8)
      rw [hk, hi, hentry, hcode, ← x.kindBit_eq] at hc
      exact hc
  · have hidx := idx_lt_of_mem_livePdos hs (List.mem_of_getElem? hx)
    have hdup : firstDuplicate [] (scanItems s.defRx s.defTx) = some x.item := by
      rw [scanItems_eq, ← livePdos_eq hs]
      refine firstDuplicate_eq_some (q := q) (by rw [List.getElem?_map, hx]; rfl) ?_ ?_
      · rw [List.nil_append, ← List.map_take, List.map_map]
        exact hnodup
      · rw [List.nil_append, ← List.map_take, List.map_map]
        exact hmem
    obtain ⟨m, hm⟩ := (compileLive_ok_iff_passUpTo s).mpr hall
    rw [livePdos_eq hs] at hm
    rcases compileSet_cases s.params s.defRx s.defTx with ⟨f, hl, -⟩ | ⟨m', -, ⟨y, hd, hf⟩ | ⟨hd, -⟩⟩
    · rw [hm] at hl; cases hl
    · rw [hdup] at hd
      cases hd
      have hc := createFails_of_error ha hn hf hidx (Nat.succ_pos 7)
      rw [x.kindBit_eq]
      exact hc
    · rw [hdup] at hd; cases hd

/-- R110, R111: an entry that passes ends within 8 bytes. -/
theorem bytes_le_of_entryCode {p : Params} {k : PdoKind} {m : Word} {held bytes : Nat}
    (h : entryCode p k m held bytes = 0) : bytes ≤ 8 := by
  unfold entryCode at h
  split at h
  · cases h
  · split at h
    · cases h
    · split_ifs at h with _ _ _ hlen
      exact Nat.le_of_not_lt hlen

theorem bytesBefore_le_of_passes {x : PdoAt} {p : Params} {held : Nat} (h : x.passes p held) :
    x.base.bytesBefore x.base.mapCnt.toNat ≤ 8 := by
  obtain ⟨hhead, hall⟩ := h
  obtain ⟨hlo, -⟩ := mapCnt_le_of_headCode hhead
  have hlast := bytes_le_of_entryCode (hall (x.base.mapCnt.toNat - 1) (by omega))
  rwa [Nat.sub_add_cancel hlo] at hlast

/-- Settles O14: a set that compiles has no such definitions. -/
theorem faultyDefinitionsNeverActivate : Obligations.FaultyDefinitionsNeverActivate := by
  intro s hs ha hfaulty
  rcases exec_pcreate_cases s with ⟨ha', -⟩ | ⟨-, -, he⟩ | ⟨-, -, ⟨f, -, he⟩ | ⟨st, hst, -⟩⟩
  · rw [ha] at ha'; cases ha'
  · exact ⟨_, he, ha, by simp, rfl, rfl, rfl⟩
  · refine ⟨_, he, ?_⟩
    rw [failCreate_frame]
    exact ⟨ha, by simp, rfl, rfl, rfl⟩
  · exfalso
    have hstaged := stagedAs_of_compiles hs hst
    rcases hfaulty with hdup | ⟨i, hi, hv, hlong⟩ | ⟨j, hj, hv, hlong⟩
    · exact hdup ((compiles_iff hs).mp ⟨st, hst⟩).2
    · rcases hstaged.rx i hi with ⟨hv', -⟩ | ⟨-, held, cc, hcc, -⟩
      · rw [cobInvalid, hv] at hv'; cases hv'
      · have hle := bytesBefore_le_of_passes (passes_of_compile (x := ⟨.rx, i, s.rxDef i, 0⟩) hcc).1
        exact absurd hlong (Nat.not_lt.mpr hle)
    · rcases hstaged.tx j hj with ⟨hv', -⟩ | ⟨-, held, cc, hcc, -⟩
      · rw [cobInvalid, hv] at hv'; cases hv'
      · have hle := bytesBefore_le_of_passes
          (passes_of_compile (x := ⟨.tx, j, (s.txDef j).base, (s.txDef j).syncStart⟩) hcc).1
        exact absurd hlong (Nat.not_lt.mpr hle)

/-! ### What PCREATE depends on -/

/-- Settles O16: with nothing to refuse it, PCREATE asks the compiler alone. -/
theorem createDependsOnTheDefinitionsOnly : Obligations.CreateDependsOnTheDefinitionsOnly := by
  intro s u hp hrx htx has hau hns hnu
  have hsame : compileSet u.params u.defRx u.defTx = compileSet s.params s.defRx s.defTx := by rw [hp, hrx, htx]
  cases hc : compileSet s.params s.defRx s.defTx with
  | ok st =>
    exact ⟨_, _, exec_pcreate_of_compiles has hns hc, exec_pcreate_of_compiles hau hnu (hsame.trans hc), rfl, rfl, rfl,
      fun _ => ⟨rfl, rfl⟩⟩
  | error f =>
    refine ⟨_, _, exec_pcreate_of_error has hns hc, exec_pcreate_of_error hau hnu (hsame.trans hc), ?_⟩
    rw [failCreate_frame, failCreate_frame]
    exact ⟨rfl, rfl, has.trans hau.symm, fun ha => by rw [has] at ha; cases ha⟩

theorem rxLive_eq_nil {ds : List PdoDef} (h : ∀ d ∈ ds, d.comm.getLsbD 31 = true) (i : Nat) : rxLive ds i = [] := by
  induction ds generalizing i with
  | nil => rfl
  | cons d ds ih =>
    rw [List.forall_mem_cons] at h
    rw [rxLive, cobInvalid, if_pos h.1]
    exact ih h.2 (i + 1)

theorem txLive_eq_nil {ds : List TxDef} (h : ∀ d ∈ ds, d.base.comm.getLsbD 31 = true) (j : Nat) : txLive ds j = [] := by
  induction ds generalizing j with
  | nil => rfl
  | cons d ds ih =>
    rw [List.forall_mem_cons] at h
    rw [txLive, cobInvalid, if_pos h.1]
    exact ih h.2 (j + 1)

/-- With every definition INVALID nothing is staged. -/
theorem compileSet_of_allInvalid {s : State} (hrx : ∀ d ∈ s.defRx, d.comm.getLsbD 31 = true)
    (htx : ∀ d ∈ s.defTx, d.base.comm.getLsbD 31 = true) : ∃ st, compileSet s.params s.defRx s.defTx = .ok st ∧
      (∀ i, st.rx.getD i none = none) ∧ ∀ j, st.tx.getD j none = none := by
  have hlive : rxLive s.defRx 0 ++ txLive s.defTx 0 = [] := by rw [rxLive_eq_nil hrx, txLive_eq_nil htx, List.nil_append]
  rcases compileSet_cases s.params s.defRx s.defTx with ⟨f, hl, -⟩ | ⟨m, -, ⟨y, hd, -⟩ | ⟨-, st, hst, hsrx, hstx⟩⟩
  · rw [hlive] at hl; cases hl
  · rw [scanItems_eq, hlive] at hd; cases hd
  · obtain ⟨hlr, hlt, -⟩ := compileSet_ok hst
    refine ⟨st, hst, fun i => ?_, fun j => ?_⟩
    · cases hi : s.defRx[i]? with
      | none =>
        rw [List.getElem?_eq_none_iff, ← hlr] at hi
        rw [List.getD_eq_getElem?_getD, List.getElem?_eq_none hi]
        rfl
      | some d =>
        rcases hsrx i d hi with ⟨-, h⟩ | ⟨hv, -⟩
        · exact h
        · rw [cobInvalid, hrx d (List.mem_of_getElem? hi)] at hv; cases hv
    · cases hj : s.defTx[j]? with
      | none =>
        rw [List.getElem?_eq_none_iff, ← hlt] at hj
        rw [List.getD_eq_getElem?_getD, List.getElem?_eq_none hj]
        rfl
      | some d =>
        rcases hstx j d hj with ⟨-, h⟩ | ⟨hv, -⟩
        · exact h
        · rw [cobInvalid, htx d (List.mem_of_getElem? hj)] at hv; cases hv

/-- Settles O17: nothing is staged, so Commit registers no slot. -/
theorem emptyDefinitionsGiveAnEmptySet : Obligations.EmptyDefinitionsGiveAnEmptySet := by
  refine ⟨fun s hs ha hn hrx htx => ?_, fun p hp => ?_⟩
  · obtain ⟨st, hst, hsrx, hstx⟩ := compileSet_of_allInvalid hrx htx
    refine ⟨_, exec_pcreate_of_compiles ha hn hst, rfl, rfl, hsrx, hstx, fun k hk => ?_⟩
    have hslots := (finish_slots _ .ok).trans (commit_slots s st)
    by_cases hrxk : k < s.params.nRpdo
    · have hslot := slotRx_of_pdoPass hslots hs hrxk
      rw [hsrx] at hslot
      rw [show k = s.params.slotRx k from rfl, hslot]
      exact ⟨rfl, rfl⟩
    · obtain ⟨j, rfl⟩ := Nat.exists_eq_add_of_le (Nat.le_of_not_lt hrxk)
      have hj : j < s.params.nTpdo := by rw [Params.emcyS] at hk; omega
      have hslot := slotTx_of_pdoPass hslots hs hj
      rw [hstx] at hslot
      rw [show s.params.nRpdo + j = s.params.slotTx j from rfl, hslot]
      exact ⟨rfl, rfl⟩
  · obtain ⟨st, hst, hsrx, hstx⟩ := compileSet_of_allInvalid (s := State.resetWith p)
      (fun d hd => by rw [List.eq_of_mem_replicate hd]; rfl) (fun d hd => by rw [List.eq_of_mem_replicate hd]; rfl)
    have hn : (State.resetWith p).noneSending := fun j _ => by
      rw [slot_resetWith]
      exact TxState.noConfusion
    exact ⟨_, exec_pcreate_of_compiles rfl hn hst, rfl, rfl, hsrx, hstx⟩

end Sys2Proof.Machine
end

section
/-! Proofs about the frame codec and PTXREQ (40_frame_codec.md R92 to R99; 42_pdo_runtime.md R145). The idea for the codec:
bit by bit, a field is the frame's bits from its offset on. -/

namespace Sys2Proof.Machine

/-! ### Fields bit by bit -/

theorem legalField_iff {o l : Nat} : legalField o l = true ↔ 1 ≤ l ∧ l ≤ 64 ∧ o + l ≤ 64 := by
  simp only [legalField, Bool.and_eq_true, decide_eq_true_eq, and_assoc]

/-- R99: what is read back is what was put, cut to the field. -/
theorem toNat_getBits_putBits (d : FrameBuf) {o l : Nat} (v : DWord) (h : o + l ≤ 64) :
    (getBits (putBits d o l v) o l).toNat = v.toNat % 2 ^ l := by
  apply Nat.eq_of_testBit_eq
  intro k
  rw [BitVec.testBit_toNat, getBits_bit, putBits_bit, Nat.testBit_mod_two_pow, BitVec.testBit_toNat]
  by_cases hk : k < l
  · rw [if_pos (by omega), Nat.add_sub_cancel_left]
  · simp [hk]

theorem putBits_getBits (d : FrameBuf) (o l : Nat) : putBits d o l (getBits d o l) = d := by
  apply frame_ext
  intro b _
  rw [putBits_bit]
  split
  next h =>
    have hin : b - o < l := by omega
    have hb : o + (b - o) = b := by omega
    rw [getBits_bit, decide_eq_true hin, Bool.true_and, hb]
  next => rfl

theorem putBits_comm (d : FrameBuf) {o l o' l' : Nat} (v v' : DWord) (h : o + l ≤ o' ∨ o' + l' ≤ o) :
    putBits (putBits d o l v) o' l' v' = putBits (putBits d o' l' v') o l v := by
  apply frame_ext
  intro b _
  simp only [putBits_bit]
  by_cases h1 : o ≤ b ∧ b < o + l ∧ b < 64
  · rw [if_neg (by omega), if_pos h1, if_pos h1]
  · rw [if_neg h1, if_neg h1]

theorem getBits_putBits_of_disjoint (d : FrameBuf) {o l o' l' : Nat} (v : DWord) (h : o + l ≤ o' ∨ o' + l' ≤ o) :
    getBits (putBits d o l v) o' l' = getBits d o' l' := by
  apply frame_ext
  intro b _
  rw [getBits_bit, getBits_bit, putBits_bit]
  by_cases hb : b < l'
  · rw [if_neg (by omega)]
  · simp [hb]

/-- Settles O8. -/
theorem codecLaws : Obligations.CodecLaws := by
  intro d o l o' l' v v' h _
  exact ⟨toNat_getBits_putBits d v (legalField_iff.mp h).2.2, putBits_getBits d o l,
    fun hdis => ⟨putBits_comm d v v' hdis, getBits_putBits_of_disjoint d v hdis⟩⟩

theorem byteAt_getBits (d : FrameBuf) {a n k : Nat} (hk : k < n) :
    byteAt (getBits d (8 * a) (8 * n)) k = byteAt d (a + k) := by
  apply byte_ext
  intro i hi
  have hin : 8 * k + i < 8 * n := by omega
  have hsum : 8 * a + (8 * k + i) = 8 * (a + k) + i := by ring
  rw [byteAt_getLsbD, byteAt_getLsbD, getBits_bit, decide_eq_true hin, Bool.true_and, hsum]

theorem byteAt_getBits_of_ge (d : FrameBuf) {a n k : Nat} (hk : n ≤ k) : byteAt (getBits d (8 * a) (8 * n)) k = 0 := by
  apply byte_ext
  intro i hi
  have hout : ¬ 8 * k + i < 8 * n := by omega
  rw [byteAt_getLsbD, getBits_bit, decide_eq_false hout, Bool.false_and, Bool.and_false]
  exact BitVec.getLsbD_zero.symm

/-- Two buffers with the same bytes are the same. -/
theorem frame_ext_bytes {d d' : DWord} (h : ∀ k < 8, byteAt d k = byteAt d' k) : d = d' := by
  apply frame_ext
  intro b hb
  rw [← byteAt_bit, ← byteAt_bit, h _ (by omega)]

/-- Settles O9. -/
theorem byteAlignedFields : Obligations.ByteAlignedFields := by
  intro d a n v _ hn
  refine ⟨frame_ext_bytes fun k _ => ?_, fun k hk => ?_, fun k hk8 hk => ?_⟩
  · rw [byteAt_leBytes (by rw [List.length_map, List.length_range]; omega), List.getD_eq_getElem?_getD,
      List.getElem?_map]
    rcases Nat.lt_or_ge k n with hlt | hge
    · rw [List.getElem?_range hlt, byteAt_getBits d hlt]
      rfl
    · rw [List.getElem?_eq_none (by rw [List.length_range]; exact hge), byteAt_getBits_of_ge d hge]
      rfl
  · rw [byteAt_putBits _ _ _ _ _ (by omega), if_pos (by omega), Nat.add_sub_cancel_left]
  · rw [byteAt_putBits _ _ _ _ _ hk8, if_neg (by omega)]

/-! ### PTXREQ -/

/-- Settles O19. -/
theorem transmitRequestSetsReq : Obligations.TransmitRequestSetsReq := by
  refine fun s j => ⟨fun hj => ?_, fun hj hc => ?_, fun c hj hc => ?_⟩
  · change execPtxreq j s = _
    rw [execPtxreq, if_pos hj]
    rfl
  · change execPtxreq j s = _
    rw [execPtxreq, if_neg (Nat.not_le.mpr hj), hc]
    rfl
  · refine ⟨(s.modTx j fun c => { c with req := true }).finish .ok, ?_, rfl, modTx_length .., ?_, fun j' hne => ?_⟩
    · change execPtxreq j s = _
      rw [execPtxreq, if_neg (Nat.not_le.mpr hj), hc]
      rfl
    · rw [txEntry_finish, txEntry_modTx, if_pos rfl, hc]
      rfl
    · rw [txEntry_finish, txEntry_modTx, if_neg hne]

end Sys2Proof.Machine
end

section
/-! Proofs about the register map and register writes (10_state.md R26, R27, R32, R40; 20_memory.md R62; 44_control.md
R175). The idea: each area of the map is one lemma, and a write changes one field of what the register reads. -/

namespace Sys2Proof.Machine

/-! ### The areas of the map (R26) -/

section
variable {p : Params} {a : BitVec 16} (h4 : a.toNat % 4 = 0)
include h4

theorem regAt_core (h : a.toNat < 0x1000) : regAt p a = (coreMap.lookup a.toNat).map .core := by
  rw [regAt, if_neg (by omega), if_pos h]

theorem regAt_rx (hlo : 0x1000 ≤ a.toNat) (hhi : a.toNat < 0x2000) : regAt p a = rxBlock p (a.toNat - 0x1000) := by
  rw [regAt, if_neg (by omega), if_neg (by omega), if_pos hhi]

theorem regAt_tx (hlo : 0x2000 ≤ a.toNat) (hhi : a.toNat < 0x3000) : regAt p a = txBlock p (a.toNat - 0x2000) := by
  rw [regAt, if_neg (by omega), if_neg (by omega), if_neg (by omega), if_pos hhi]

theorem regAt_gap (hlo : 0x3000 ≤ a.toNat) (hhi : a.toNat < 0x8000) : regAt p a = none := by
  rw [regAt, if_neg (by omega), if_neg (by omega), if_neg (by omega), if_neg (by omega), if_pos hhi]

theorem regAt_window (hlo : 0x8000 ≤ a.toNat) : regAt p a = slotWindow p (a.toNat - 0x8000) := by
  rw [regAt, if_neg (by omega), if_neg (by omega), if_neg (by omega), if_neg (by omega), if_neg (by omega)]

end

/-! ### Registers at their addresses -/

theorem coreMap_of_coreOffsets : ∀ x ∈ coreOffsets,
    coreMap.lookup x.1.toNat = some x.2 ∧ x.1.toNat % 4 = 0 ∧ x.1.toNat < 0x1000 := by decide

theorem coreMap_of_addrOf (r : CoreReg) : coreMap.lookup (addrOf (.core r)).toNat = some r ∧
    (addrOf (.core r)).toNat % 4 = 0 ∧ (addrOf (.core r)).toNat < 0x1000 := by
  cases r <;> decide

theorem toNat_addr {n : Nat} (h : n < 2 ^ 16) : (BitVec.ofNat 16 n).toNat = n := toNat_ofNat_of_lt h

/-- The offsets of R32's registers that exist. -/
theorem pdoRegOffset_facts {r : PdoReg} (h : ∀ e, r = .map e → e < 8) :
    addrOf.pdoRegOffset r < 0x40 ∧ addrOf.pdoRegOffset r % 4 = 0 ∧ pdoRegAt (addrOf.pdoRegOffset r) = r := by
  cases r with
  | map e =>
    have he := h e rfl
    have hoff : addrOf.pdoRegOffset (.map e) = 0x10 + 4 * e := rfl
    refine ⟨by omega, by omega, ?_⟩
    rw [hoff, pdoRegAt, if_neg (by omega), if_neg (by omega), if_neg (by omega), if_neg (by omega), if_pos (by omega)]
    congr 1
    omega
  | _ => exact ⟨by decide, by decide, rfl⟩

theorem winRegOffset_facts (r : WinReg) :
    addrOf.winRegOffset r < 0x20 ∧ addrOf.winRegOffset r % 4 = 0 ∧ winRegAt (addrOf.winRegOffset r) = r := by
  cases r <;> exact ⟨by decide, by decide, rfl⟩

theorem regAt_rxBlock {p : Params} (hp : p.wf) {i o : Nat} (hi : i < p.nRpdo) (ho : o < 0x40) (h4 : o % 4 = 0) :
    regAt p (BitVec.ofNat 16 (0x1000 + 0x40 * i + o)) = some (.rxDef i (pdoRegAt o)) := by
  obtain ⟨-, hr, -⟩ := hp
  have ha := toNat_addr (n := 0x1000 + 0x40 * i + o) (by omega)
  have hdiv : (0x1000 + 0x40 * i + o - 0x1000) / 0x40 = i := by omega
  have hmod : (0x1000 + 0x40 * i + o - 0x1000) % 0x40 = o := by omega
  rw [regAt_rx (by omega) (by omega) (by omega), ha, rxBlock, hdiv, hmod, if_pos hi]

theorem regAt_txBlock {p : Params} (hp : p.wf) {j o : Nat} (hj : j < p.nTpdo) (ho : o < 0x40) (h4 : o % 4 = 0) :
    regAt p (BitVec.ofNat 16 (0x2000 + 0x40 * j + o)) = some (.txDef j (pdoRegAt o)) := by
  obtain ⟨-, -, -, ht, -⟩ := hp
  have ha := toNat_addr (n := 0x2000 + 0x40 * j + o) (by omega)
  have hdiv : (0x2000 + 0x40 * j + o - 0x2000) / 0x40 = j := by omega
  have hmod : (0x2000 + 0x40 * j + o - 0x2000) % 0x40 = o := by omega
  rw [regAt_tx (by omega) (by omega) (by omega), ha, txBlock, hdiv, hmod, if_pos hj]

theorem regAt_slotWindow {p : Params} (hp : p.wf) {k o : Nat} (hk : k < p.nSlot) (ho : o < 0x20) (h4 : o % 4 = 0) :
    regAt p (BitVec.ofNat 16 (0x8000 + 0x20 * k + o)) = some (.window k (winRegAt o)) := by
  obtain ⟨-, hr, -, ht, -⟩ := hp
  have hslots : p.nSlot = p.nRpdo + p.nTpdo + 3 := rfl
  have ha := toNat_addr (n := 0x8000 + 0x20 * k + o) (by omega)
  have hdiv : (0x8000 + 0x20 * k + o - 0x8000) / 0x20 = k := by omega
  have hmod : (0x8000 + 0x20 * k + o - 0x8000) % 0x20 = o := by omega
  rw [regAt_window (by omega) (by omega), ha, slotWindow, hdiv, hmod, if_pos hk]

/-- An existing definition register is a block's, and a map register one of the eight. -/
theorem exists_rxDef {p : Params} {i : Nat} {r : PdoReg} (h : (Reg.rxDef i r).exists p) :
    i < p.nRpdo ∧ ∀ e, r = .map e → e < 8 := by
  cases r with
  | map e => exact ⟨h.1, fun e' he => by cases he; exact h.2⟩
  | _ => exact ⟨h, fun _ he => by cases he⟩

theorem exists_txDef {p : Params} {j : Nat} {r : PdoReg} (h : (Reg.txDef j r).exists p) :
    j < p.nTpdo ∧ ∀ e, r = .map e → e < 8 := by
  cases r with
  | map e => exact ⟨h.1, fun e' he => by cases he; exact h.2⟩
  | _ => exact ⟨h, fun _ he => by cases he⟩

theorem regAt_addrOf {p : Params} (hp : p.wf) {r : Reg} (h : r.exists p) : regAt p (addrOf r) = some r := by
  cases r with
  | core r =>
    obtain ⟨hl, h4, hlt⟩ := coreMap_of_addrOf r
    rw [regAt_core h4 hlt, hl]
    rfl
  | rxDef i r =>
    obtain ⟨hi, hmap⟩ := exists_rxDef h
    obtain ⟨ho, h4, hr⟩ := pdoRegOffset_facts hmap
    rw [addrOf, regAt_rxBlock hp hi ho h4, hr]
  | txDef j r =>
    obtain ⟨hj, hmap⟩ := exists_txDef h
    obtain ⟨ho, h4, hr⟩ := pdoRegOffset_facts hmap
    rw [addrOf, regAt_txBlock hp hj ho h4, hr]
  | window k r =>
    obtain ⟨ho, h4, hr⟩ := winRegOffset_facts r
    rw [addrOf, regAt_slotWindow hp h ho h4, hr]

/-- R27: the core registers' offsets, and no others. -/
theorem coreMap_lookup_hole {a : Nat} (h : a = 0x038 ∨ a = 0x03C ∨ a = 0x058 ∨ a = 0x05C ∨ 0x068 ≤ a) :
    coreMap.lookup a = none := by
  cases hl : coreMap.lookup a with
  | none => rfl
  | some r =>
    have hmem := List.mem_map_of_mem (f := (·.1)) (mem_coreMap_of_lookup hl)
    simp only [coreMap, List.map_cons, List.map_nil, List.mem_cons, List.not_mem_nil, or_false] at hmem
    omega

/-- Settles O40: an address is looked at in its own area. -/
theorem registersAreAtTheirAddresses : Obligations.RegistersAreAtTheirAddresses := by
  intro p hp
  refine ⟨fun x hx => ?_, fun r => by cases r <;> decide, fun r => regAt_addrOf hp, fun k hk o ho => ?_, fun a ha => ?_⟩
  · obtain ⟨hl, h4, hlt⟩ := coreMap_of_coreOffsets x hx
    rw [regAt_core h4 hlt, hl]
    rfl
  · have hfacts : o < 0x20 ∧ o % 4 = 0 ∧ winRegAt o = .reserved := by
      revert o
      decide
    rw [regAt_slotWindow hp hk hfacts.1 hfacts.2.1, hfacts.2.2]
  · by_cases h4 : a.toNat % 4 = 0
    · obtain ⟨-, hr, -, ht, -⟩ := hp
      have hslots : p.nSlot = p.nRpdo + p.nTpdo + 3 := rfl
      by_cases hcore : a.toNat < 0x1000
      · rw [regAt_core h4 hcore, coreMap_lookup_hole (by omega)]
        rfl
      · by_cases hrx : a.toNat < 0x2000
        · rw [regAt_rx h4 (by omega) hrx, rxBlock, if_neg (by omega)]
        · by_cases htx : a.toNat < 0x3000
          · rw [regAt_tx h4 (by omega) htx, txBlock, if_neg (by omega)]
          · by_cases hgap : a.toNat < 0x8000
            · exact regAt_gap h4 (by omega) hgap
            · rw [regAt_window h4 (by omega), slotWindow, if_neg (by omega)]
    · exact regAt_of_unaligned h4

end Sys2Proof.Machine
end

section
/-! Proofs about a host register write other than to CMD (20_memory.md R62, 44_control.md R175). The idea: every
register reads as one field of the state, and a write puts the writable bits of the value into that field alone. -/

namespace Sys2Proof.Machine

/-! ### The writable bits of a word -/

/-- Word `old` with the bits of mask `m` taken from `v` (R175). -/
def storedBits (m v old : Word) : Word := (v &&& m) ||| (old &&& ~~~ m)

theorem storedBits_all (v old : Word) : storedBits 0xFFFFFFFF v old = v := by
  have hnone : ~~~ (0xFFFFFFFF : Word) = 0 := by decide
  have hall : (0xFFFFFFFF : Word) = BitVec.allOnes 32 := by decide
  rw [storedBits, hnone, hall, BitVec.and_allOnes]
  simp

theorem storedBits_none (v old : Word) : storedBits 0 v old = old := by
  have hall : ~~~ (0 : Word) = BitVec.allOnes 32 := by decide
  rw [storedBits, hall, BitVec.and_allOnes]
  simp

/-- A field of `k` bits at bit 0 takes the low bits of the word. -/
theorem bitsAt_extractLsb' {k : Nat} (v : Word) (old : BitVec k) :
    bitsAt 0 (v.extractLsb' 0 k) = storedBits (BitVec.ofNat 32 (2 ^ k - 1)) v (bitsAt 0 old) := by
  apply BitVec.eq_of_getLsbD_eq
  intro i hi
  have hmask : (BitVec.ofNat 32 (2 ^ k - 1))[i] = decide (i < k) := by
    rw [← BitVec.getLsbD_eq_getElem, BitVec.getLsbD_ofNat, decide_eq_true hi, Bool.true_and,
      Nat.testBit_two_pow_sub_one]
  by_cases hik : i < k
  · simp [storedBits, bitsAt, hmask, hi, hik]
  · have hold : old.getLsbD i = false := BitVec.getLsbD_of_ge _ _ (by omega)
    simp [storedBits, bitsAt, hmask, hi, hik, hold]

/-- R35: RESYNC_EN is bit 1 of SYNC_CTRL, and the one writable bit there. -/
theorem syncCtrl_storedBits (installed resync valid : Bool) (v : Word) :
    flagAt 0 installed ||| flagAt 1 (v.getLsbD 1) ||| flagAt 2 valid =
      storedBits 2 v (flagAt 0 installed ||| flagAt 1 resync ||| flagAt 2 valid) := by
  have hbit : v &&& 2 = flagAt 1 (v.getLsbD 1) := BitVec.and_twoPow v 1 |>.trans (by cases v.getLsbD 1 <;> rfl)
  rw [storedBits, hbit]
  generalize v.getLsbD 1 = b
  revert installed resync valid b
  decide

/-- R32: CHG is bit 0 of CFG. -/
theorem flagAt_storedBits (v : Word) (old : Bool) : flagAt 0 (v.getLsbD 0) = storedBits 1 v (flagAt 0 old) := by
  have hfield : BitVec.ofBool (v.getLsbD 0) = v.extractLsb' 0 1 := by
    apply BitVec.eq_of_getLsbD_eq
    intro i hi
    obtain rfl : i = 0 := by omega
    simp
  rw [flagAt, hfield]
  exact bitsAt_extractLsb' v (BitVec.ofBool old)

/-! ### The fields of a definition block -/

section
variable (d : PdoDef) {r : PdoReg} (v : Word)

theorem comm_write_of_ne (h : r ≠ .comm) : (d.write r v).comm = d.comm := by
  cases r with
  | comm => exact absurd rfl h
  | _ => rfl

theorem ttype_write_of_ne (h : r ≠ .ttype) : (d.write r v).ttype = d.ttype := by
  cases r with
  | ttype => exact absurd rfl h
  | _ => rfl

theorem mapCnt_write_of_ne (h : r ≠ .mapCnt) : (d.write r v).mapCnt = d.mapCnt := by
  cases r with
  | mapCnt => exact absurd rfl h
  | _ => rfl

theorem mapAt_write_of_ne {e : Nat} (h : r ≠ .map e) : (d.write r v).mapAt e = d.mapAt e := by
  cases r with
  | map e' =>
    have hne : e' ≠ e := fun he => h (he ▸ rfl)
    simp [PdoDef.mapAt, PdoDef.write, Vector.toList_setIfInBounds, List.getD_eq_getElem?_getD, List.getElem?_set_ne hne]
  | _ => rfl

theorem mapAt_write {e : Nat} (he : e < 8) : (d.write (.map e) v).mapAt e = v := by
  rw [mapAt_eq _ he]
  exact Vector.getElem_setIfInBounds_self he

end

section
variable (d : TxDef) {r : PdoReg} (v : Word)

theorem base_write (r : PdoReg) : (d.write r v).base = d.base.write r v := by cases r <;> rfl

theorem chg_write_of_ne (h : r ≠ .cfg) : (d.write r v).chg = d.chg := by
  cases r with
  | cfg => exact absurd rfl h
  | _ => rfl

theorem inhibit_write_of_ne (h : r ≠ .inhibit) : (d.write r v).inhibit = d.inhibit := by
  cases r with
  | inhibit => exact absurd rfl h
  | _ => rfl

theorem syncStart_write_of_ne (h : r ≠ .syncStart) : (d.write r v).syncStart = d.syncStart := by
  cases r with
  | syncStart => exact absurd rfl h
  | _ => rfl

end

/-! ### A write to a register of an RPDO's block -/

section
variable {s t : State} {i : Nat} {r : PdoReg} {v : Word}

theorem rxDef_modRxDef (hi : i < s.defRx.length) (f : PdoDef → PdoDef) : (s.modRxDef i f).rxDef i = f (s.rxDef i) := by
  rw [State.rxDef, State.modRxDef, getD_modify, if_pos ⟨rfl, hi⟩]
  rfl

theorem rxDef_modRxDef_of_ne {i' : Nat} (h : i' ≠ i) (f : PdoDef → PdoDef) : (s.modRxDef i f).rxDef i' = s.rxDef i' := by
  rw [State.rxDef, State.modRxDef, getD_modify, if_neg fun hi => h hi.1.symm]
  rfl

theorem readRxDef_congr (hd : t.rxDef i = s.rxDef i) (hcnt : t.rxCnt = s.rxCnt) (hc : t.crx = s.crx) (r : PdoReg) :
    t.readRxDef i r = s.readRxDef i r := by
  have hentry : t.rxEntry i = s.rxEntry i := by rw [State.rxEntry, State.rxEntry, hc]
  cases r <;> simp only [State.readRxDef, hd, hcnt, hentry]

theorem readRxDef_write_of_ne (hi : i < s.defRx.length) {r' : PdoReg} (hne : r' ≠ r) :
    (s.modRxDef i fun d => d.write r v).readRxDef i r' = s.readRxDef i r' := by
  have hd := rxDef_modRxDef hi fun d => d.write r v
  cases r' with
  | comm => rw [State.readRxDef, hd, comm_write_of_ne _ v hne.symm, State.readRxDef]
  | ttype => rw [State.readRxDef, hd, ttype_write_of_ne _ v hne.symm, State.readRxDef]
  | mapCnt => rw [State.readRxDef, hd, mapCnt_write_of_ne _ v hne.symm, State.readRxDef]
  | map e => rw [State.readRxDef, hd, mapAt_write_of_ne _ v hne.symm, State.readRxDef]
  | _ => rfl

theorem readRxDef_write (hi : i < s.defRx.length) (hmap : ∀ e, r = .map e → e < 8) :
    (s.modRxDef i fun d => d.write r v).readRxDef i r = storedBits (Reg.rxDef i r).writable v (s.readRxDef i r) := by
  have hd := rxDef_modRxDef hi fun d => d.write r v
  cases r with
  | comm => rw [State.readRxDef, hd]; exact (storedBits_all v _).symm
  | ttype => rw [State.readRxDef, hd]; exact bitsAt_extractLsb' v _
  | mapCnt => rw [State.readRxDef, hd]; exact bitsAt_extractLsb' v _
  | map e => rw [State.readRxDef, hd, mapAt_write _ v (hmap e rfl)]; exact (storedBits_all v _).symm
  | _ => exact (storedBits_none v _).symm

end

/-! ### A write to a register of a TPDO's block -/

section
variable {s t : State} {j : Nat} {r : PdoReg} {v : Word}

theorem txDef_modTxDef (hj : j < s.defTx.length) (f : TxDef → TxDef) : (s.modTxDef j f).txDef j = f (s.txDef j) := by
  rw [State.txDef, State.modTxDef, getD_modify, if_pos ⟨rfl, hj⟩]
  rfl

theorem txDef_modTxDef_of_ne {j' : Nat} (h : j' ≠ j) (f : TxDef → TxDef) : (s.modTxDef j f).txDef j' = s.txDef j' := by
  rw [State.txDef, State.modTxDef, getD_modify, if_neg fun hj => h hj.1.symm]
  rfl

theorem readTxDef_congr (hd : t.txDef j = s.txDef j) (hcnt : t.txCnt = s.txCnt) (hc : t.ctx = s.ctx) (r : PdoReg) :
    t.readTxDef j r = s.readTxDef j r := by
  have hentry : t.txEntry j = s.txEntry j := by rw [State.txEntry, State.txEntry, hc]
  cases r <;> simp only [State.readTxDef, hd, hcnt, hentry]

theorem readTxDef_write_of_ne (hj : j < s.defTx.length) {r' : PdoReg} (hne : r' ≠ r) :
    (s.modTxDef j fun d => d.write r v).readTxDef j r' = s.readTxDef j r' := by
  have hd := txDef_modTxDef hj fun d => d.write r v
  cases r' with
  | comm => rw [State.readTxDef, hd, base_write, comm_write_of_ne _ v hne.symm, State.readTxDef]
  | ttype => rw [State.readTxDef, hd, base_write, ttype_write_of_ne _ v hne.symm, State.readTxDef]
  | mapCnt => rw [State.readTxDef, hd, base_write, mapCnt_write_of_ne _ v hne.symm, State.readTxDef]
  | map e => rw [State.readTxDef, hd, base_write, mapAt_write_of_ne _ v hne.symm, State.readTxDef]
  | cfg => rw [State.readTxDef, hd, chg_write_of_ne _ v hne.symm, State.readTxDef]
  | inhibit => rw [State.readTxDef, hd, inhibit_write_of_ne _ v hne.symm, State.readTxDef]
  | syncStart => rw [State.readTxDef, hd, syncStart_write_of_ne _ v hne.symm, State.readTxDef]
  | _ => rfl

theorem readTxDef_write (hj : j < s.defTx.length) (hmap : ∀ e, r = .map e → e < 8) :
    (s.modTxDef j fun d => d.write r v).readTxDef j r = storedBits (Reg.txDef j r).writable v (s.readTxDef j r) := by
  have hd := txDef_modTxDef hj fun d => d.write r v
  cases r with
  | comm => rw [State.readTxDef, hd]; exact (storedBits_all v _).symm
  | ttype => rw [State.readTxDef, hd]; exact bitsAt_extractLsb' v _
  | mapCnt => rw [State.readTxDef, hd]; exact bitsAt_extractLsb' v _
  | map e => rw [State.readTxDef, hd, base_write, mapAt_write _ v (hmap e rfl)]; exact (storedBits_all v _).symm
  | cfg => rw [State.readTxDef, hd]; exact flagAt_storedBits v _
  | inhibit => rw [State.readTxDef, hd]; exact bitsAt_extractLsb' v _
  | syncStart => rw [State.readTxDef, hd]; exact bitsAt_extractLsb' v _
  | _ => exact (storedBits_none v _).symm

end

/-! ### A write to a core register -/

section
variable (s : State) {r : CoreReg} (v : Word)

theorem readCore_write (r : CoreReg) :
    (s.writeCore r v).readCore r = storedBits (Reg.core r).writable v (s.readCore r) := by
  cases r with
  | arg0 => exact (storedBits_all v _).symm
  | arg1 => exact (storedBits_all v _).symm
  | irqEn => exact bitsAt_extractLsb' v s.irqEn
  | emcyInh => exact bitsAt_extractLsb' v s.emcyInh
  | syncCtrl => exact syncCtrl_storedBits s.syncInstalled s.resyncEn s.validIn v
  | _ => exact (storedBits_none v _).symm

/-- A write to a core register is a write of the one field it reads as. -/
theorem readCore_write_of_ne {r' : CoreReg} (hne : r' ≠ r) : (s.writeCore r v).readCore r' = s.readCore r' := by
  cases r with
  | arg0 => cases r' with
    | arg0 => exact absurd rfl hne
    | _ => rfl
  | arg1 => cases r' with
    | arg1 => exact absurd rfl hne
    | _ => rfl
  | irqEn => cases r' with
    | irqEn => exact absurd rfl hne
    | _ => rfl
  | emcyInh => cases r' with
    | emcyInh => exact absurd rfl hne
    | _ => rfl
  | syncCtrl => cases r' with
    | syncCtrl => exact absurd rfl hne
    | _ => rfl
  | _ => rfl

end

/-! ### A write to any register -/

theorem readReg_answer (s : State) (x : Response) (r : Reg) : (s.answer x).readReg r = s.readReg r := by
  cases r with
  | core r => cases r <;> rfl
  | rxDef i r => cases r <;> rfl
  | txDef j r => cases r <;> rfl
  | window k r => cases r <;> rfl

theorem readReg_writeReg {s : State} (hs : ShapeInv s) {r : Reg} (hr : r.exists s.params) (v : Word) :
    (s.writeReg r v).readReg r = storedBits r.writable v (s.readReg r) := by
  cases r with
  | core r => exact readCore_write s v r
  | rxDef i r =>
    obtain ⟨hi, hmap⟩ := exists_rxDef hr
    exact readRxDef_write (hs.defRx ▸ hi) hmap
  | txDef j r =>
    obtain ⟨hj, hmap⟩ := exists_txDef hr
    exact readTxDef_write (hs.defTx ▸ hj) hmap
  | window k r => exact (storedBits_none v _).symm

theorem readReg_writeReg_of_ne {s : State} (hs : ShapeInv s) {r r' : Reg} (hr : r.exists s.params) (hne : r' ≠ r)
    (v : Word) : (s.writeReg r v).readReg r' = s.readReg r' := by
  cases r with
  | core r =>
    cases r' with
    | core r' => exact readCore_write_of_ne s v fun h => hne (h ▸ rfl)
    | rxDef i r' => cases r <;> exact readRxDef_congr rfl rfl rfl r'
    | txDef j r' => cases r <;> exact readTxDef_congr rfl rfl rfl r'
    | window k r' => cases r <;> cases r' <;> rfl
  | rxDef i r =>
    have hi : i < s.defRx.length := hs.defRx ▸ (exists_rxDef hr).1
    cases r' with
    | core r' => cases r' <;> rfl
    | rxDef i' r' =>
      by_cases hi' : i' = i
      · subst hi'
        exact readRxDef_write_of_ne hi fun h => hne (h ▸ rfl)
      · exact readRxDef_congr (rxDef_modRxDef_of_ne hi' _) rfl rfl r'
    | txDef j r' => exact readTxDef_congr rfl rfl rfl r'
    | window k r' => cases r' <;> rfl
  | txDef j r =>
    have hj : j < s.defTx.length := hs.defTx ▸ (exists_txDef hr).1
    cases r' with
    | core r' => cases r' <;> rfl
    | rxDef i r' => exact readRxDef_congr rfl rfl rfl r'
    | txDef j' r' =>
      by_cases hj' : j' = j
      · subst hj'
        exact readTxDef_write_of_ne hj fun h => hne (h ▸ rfl)
      · exact readTxDef_congr (txDef_modTxDef_of_ne hj' _) rfl rfl r'
    | window k r' => cases r' <;> rfl
  | window k r => rfl

/-! ### The registers that addresses name -/

/-- The MAP registers of a block are the eight of R31. -/
theorem pdoRegAt_map_lt {o e : Nat} (h : pdoRegAt o = .map e) : e < 8 := by
  by_cases ho : o < 0x30
  · unfold pdoRegAt at h
    split_ifs at h
    cases h
    omega
  · unfold pdoRegAt at h
    split_ifs at h

theorem exists_rxDef_of_lt {p : Params} {i o : Nat} (h : i < p.nRpdo) : (Reg.rxDef i (pdoRegAt o)).exists p := by
  cases hr : pdoRegAt o with
  | map e => exact ⟨h, pdoRegAt_map_lt hr⟩
  | _ => exact h

theorem exists_txDef_of_lt {p : Params} {j o : Nat} (h : j < p.nTpdo) : (Reg.txDef j (pdoRegAt o)).exists p := by
  cases hr : pdoRegAt o with
  | map e => exact ⟨h, pdoRegAt_map_lt hr⟩
  | _ => exact h

theorem exists_of_rxBlock {p : Params} {o : Nat} {r : Reg} (h : rxBlock p o = some r) : r.exists p := by
  obtain ⟨hi, ⟨⟩⟩ := Option.ite_none_right_eq_some.mp h
  exact exists_rxDef_of_lt hi

theorem exists_of_txBlock {p : Params} {o : Nat} {r : Reg} (h : txBlock p o = some r) : r.exists p := by
  obtain ⟨hj, ⟨⟩⟩ := Option.ite_none_right_eq_some.mp h
  exact exists_txDef_of_lt hj

theorem exists_of_slotWindow {p : Params} {o : Nat} {r : Reg} (h : slotWindow p o = some r) : r.exists p := by
  obtain ⟨hk, ⟨⟩⟩ := Option.ite_none_right_eq_some.mp h
  exact hk

/-- What an address names exists, by the area the address is in (R26). -/
theorem exists_of_regAt {p : Params} {a : BitVec 16} {r : Reg} (h : regAt p a = some r) : r.exists p := by
  unfold regAt at h
  split_ifs at h
  · obtain ⟨c, -, rfl⟩ := Option.map_eq_some_iff.mp h
    trivial
  · exact exists_of_rxBlock h
  · exact exists_of_txBlock h
  · exact exists_of_slotWindow h

/-- Settles O41: a write to a register changes what that register reads as and no other. -/
theorem writesStoreTheWritableBits : Obligations.WritesStoreTheWritableBits := by
  intro s a w v xs hs hx
  have hstep : step s = hostWrite a w v (s.begin xs) := step_of_enabled hx rfl
  refine ⟨fun r hw hr hne => ?reg, fun hbad => ?busError⟩
  case reg =>
    subst hw
    have hbegin : ShapeInv (s.begin xs) := ⟨hs.1, hs.2, hs.3, hs.4, hs.5, hs.6, hs.7, hs.8, hs.9, hs.10⟩
    have hexists : r.exists (s.begin xs).params := exists_of_regAt hr
    refine ⟨_, hstep.trans (hostWrite_of_reg (s := s.begin xs) hr hne v), ?_, rfl, ?_, fun r' _ hne' => ?_, ?_⟩
    · rw [writeReg_frame]; rfl
    · rw [readReg_answer, readReg_writeReg hbegin hexists, readReg_begin]; rfl
    · rw [readReg_answer, readReg_writeReg_of_ne hbegin hexists hne', readReg_begin]
    · rw [writeReg_frame]
      exact ⟨rfl, rfl, rfl, rfl, rfl, rfl, rfl⟩
  case busError => exact hstep.trans (hostWrite_of_busError (s := s.begin xs) hbad v)

end Sys2Proof.Machine
end
